-- ==== Sys2Proof/Word.lean ====
section
/-!
DEFINITION. The machine's words and the plainest arithmetic on them (00:R4, 01:R8, 01:R10).
-/

namespace Sys2Proof

/-- A scalar register, a program counter, a virtual address (R8, R10, R14). -/
abbrev Word := BitVec 64

/-- One byte of memory. -/
abbrev Byte := BitVec 8

/-- A register number of a six-bit field (R36, R37). -/
abbrev Reg := BitVec 6

/-- A context's address-space number (R223). -/
abbrev Asid := BitVec 12

/-- One instruction slot: 96 bits (R26). -/
abbrev SlotWord := BitVec 96

/-- A vector register: 2048 bits (R3, R88). -/
abbrev VReg := BitVec 2048

/-- A scale or band-shape register: 256 bits (R88, R155). -/
abbrev EReg := BitVec 256

/-- A mask register: 8,192 bits (R88). -/
abbrev MReg := BitVec 8192

/-- A pattern register: one 64-byte record (R275). -/
abbrev APReg := BitVec 512

/-- A handle register (R326). -/
abbrev Handle := BitVec 128

end Sys2Proof
end

