-- ==== Sys2Proof/Config.lean ====
section
/-!
DEFINITION. What this device fixes and no rule gives: secrets of the part and what firmware decides. Each is a free value:
it has no body, and a statement holds whatever it is.
-/

namespace Sys2Proof.Config

/-- What the spec leaves open, in the order in which a run meets it (notes/assumptions/8.md). -/
opaque freeChoice : Nat → Nat

/-- The device mark key (R394; notes/assumptions/21.md). -/
opaque markKey : List Byte

/-! The identity of the device (R397; notes/assumptions/21.md): the secrets of its two key pairs, the certificates that Swient has
signed, and the Swient keys that the boot ROM holds. -/

opaque ed25519Secret : BitVec 256
opaque mlDsaSecret : BitVec 256
opaque certificate : Fin 2 → List Byte
opaque romEd25519 : BitVec 256
opaque romMlDsa : BitVec 15616

/-- The random number of a signature of a message, which FIPS 204 leaves to the signer (notes/assumptions/113.md). -/
opaque mlDsaRandom : List Byte → BitVec 256

end Sys2Proof.Config
end

