-- ==== Sys2Proof/Syntax.lean ====
section
/-!
DEFINITION. The syntax: the fields of the four instruction formats (02:R36), the data of the device's events, and
`Instr`, one constructor for each row of spec/opcode_table.json.
An instruction holds the fields of its format; which of them it uses, and their limits, is said by `Instr.WellFormed`.
The rows that no instruction word encodes are the device's own steps (95): they come from the agenda of the state, with
an `EventArg`.
A constructor with a field can be compiled only among the first 244, so an instruction whose word leaves nothing or little
to choose has constructors without a field: AGANG has one for each of the two names that R181 allows and one for the other names, which all trap, FENCE.RO has six (one for
each word that R242 allows), and DFAN and VLD1K, which trap whatever their fields hold (R43), have one.
-/

namespace Sys2Proof

/-- Format G without its opcode and function (R36). -/
structure GOp where
  form : BitVec 2 := 3
  d : Reg := 0
  a : Reg := 0
  b : Reg := 0
  c : Reg := 0
  msk : BitVec 3 := 0
  mz : BitVec 1 := 0
  fl : BitVec 4 := 0
  x : BitVec 16 := 0
  imm : BitVec 32 := 0
  deriving DecidableEq, Repr

/-- Format B without its opcode and function (R36). `z1` and `z2` are its bits [61:48] and [47:33]. -/
structure BOp where
  form : BitVec 2 := 3
  d : Reg := 0
  a : Reg := 0
  b : Reg := 0
  z1 : BitVec 14 := 0
  z2 : BitVec 15 := 0
  likely : BitVec 1 := 0
  loff : BitVec 29 := 0
  tslot : BitVec 3 := 0
  deriving DecidableEq, Repr

/-- Format M without its opcode and function (R36). -/
structure MOp where
  form : BitVec 2 := 3
  d : Reg := 0
  a : Reg := 0
  b : Reg := 0
  c : Reg := 0
  msk : BitVec 3 := 0
  mz : BitVec 1 := 0
  h : BitVec 1 := 0
  nf : BitVec 1 := 0
  ro : BitVec 1 := 0
  rot : BitVec 1 := 0
  ord : BitVec 2 := 0
  scope : BitVec 3 := 0
  ixw : BitVec 3 := 0
  aux : BitVec 8 := 0
  ofs : BitVec 32 := 0
  deriving DecidableEq, Repr

/-- Format E without its opcode and function (R36). `z` is its bits [55:52]. -/
structure EOp where
  form : BitVec 2 := 3
  d : Reg := 0
  a : Reg := 0
  b : Reg := 0
  c : Reg := 0
  z : BitVec 4 := 0
  fl : BitVec 4 := 0
  cmod : BitVec 9 := 0
  rv : BitVec 1 := 0
  rs : Reg := 0
  imm : BitVec 32 := 0
  deriving DecidableEq, Repr

/-- A hart slot of the package: die 0 to 3, core 0 to 39 of the die, slot 0 to 3 of the core (R3, R95). -/
structure Place where
  die : Nat := 0
  core : Nat := 0
  slot : Nat := 0
  deriving DecidableEq, Repr

/-- Where a graph submission waits: a launch queue of a function, or a die's device queue (R193, R194). -/
inductive LaunchSource where
  | host (fn q : Nat)
  | device (die : Nat)
  deriving DecidableEq, Repr

/-- The device registers that a REGISTER_WRITE may name: those the spec names, each with the rule that does, and
the rest by a number. -/
inductive DevReg where
  /-- GADDR of launch queue `q` of function `fn` (R193). -/
  | lqaddr (fn q : Nat)
  /-- Base of the page table (R224). -/
  | ptbase
  /-- log2 of the page table's bucket count (R224). -/
  | ptlog2
  /-- Cycles from a pre-emption request to its deadline, per die (R371). -/
  | deadline (die : Nat)
  /-- Power units of a window, per die (R408). -/
  | budgetUnits (die : Nat)
  /-- Headroom threshold of R170, per die (R408). -/
  | budgetThreshold (die : Nat)
  /-- A sensor threshold of a die: 0 to 2 warning, throttle and shutdown of the temperature, 3 to 5 of the voltage, 6 the drift of an
  oscillator (R406). -/
  | sensorLimit (die k : Nat)
  /-- Provenance identifier of a context (R394). -/
  | provenance (asid : Asid)
  /-- Frame counter of a context (R394). -/
  | frameCounter (asid : Asid)
  /-- Assignment of a context to a function, the value; 0xFFFF for none (R390). -/
  | assign (asid : Asid)
  /-- The page of BAR 2 of a function at an offset: the value holds the ASID in [63:52] and the page in [51:0] (R390). -/
  | bar2 (fn page : Nat)
  /-- Replica frame of a read-duplicated page on a die; all ones for none (R386). -/
  | replica (die frame : Nat)
  /-- The route of a 64 GiB window of the host range: the host link, or a peer package, the value its physical address (R389). -/
  | route (window : Nat) (peer : Option Nat)
  /-- Grant of a page of physical memory to the Bryned peers: 1 granted (R389). -/
  | peerGrant (page : Nat)
  /-- ABASE and AGRAN of a context's arena (R324). -/
  | abase (asid : Asid)
  | agran (asid : Asid)
  /-- Firmware destroys a context, with value 0, or creates it (R336). -/
  | context (asid : Asid)
  /-- Firmware clears a die's latent counter and log (R369). -/
  | latent (die : Nat)
  /-- A die's weight store loses its owner (R215). -/
  | releaseStore (die : Nat)
  /-- A register the spec gives no behaviour of its own. -/
  | other (n : Nat)
  deriving DecidableEq, Repr

/-- A Bryned peer's inbound request at a physical address (R389). -/
inductive PeerRequest where
  | read (pa len : Nat)
  | write (pa : Nat) (bytes : List Byte)
  /-- An atomic of 4 or 8 bytes: its function code and its operands B and C (R247). -/
  | atomic (pa : Nat) (wide : Bool) (fn b c : Nat)
  deriving DecidableEq, Repr

/-- A sensor of a die (R406): the temperature of a core, the voltage of a rail domain, the ring oscillator of a quadrant. -/
inductive Sensor where
  | temperature (core : Nat)
  | voltage (rail : Nat)
  | oscillator (quadrant : Nat)
  deriving DecidableEq, Repr

/-- What the physical function reads through the monitor interface and its status register (R397, R407). -/
inductive MonitorItem where
  | reading (die : Nat) (sensor : Sensor)
  | counters (p : Place)
  | latent (die : Nat)
  | latentEntry (die k : Nat)
  | bootStatus
  deriving DecidableEq, Repr

/-- What an event of the device's own steps is about. -/
inductive EventArg where
  | none
  /-- A position in the list that the event names (a command, a set, a write not yet performed). -/
  | index (k : Nat)
  /-- A store, by its position, performs for the agents of one more die (R263). -/
  | seenBy (k die : Nat)
  /-- As `index`, and firmware cannot map the page that is missing. -/
  | cannotMap (k : Nat)
  | core (die core : Nat)
  | refill (v : Reg) (n : Nat)
  | granule (asid : Asid) (granule : Nat)
  | queue (fn q : Nat) (asid : Asid)
  | register (r : DevReg) (value : Word)
  | submission (src : LaunchSource)
  | node (g n : Nat)
  | place (g n : Nat) (places : List Place)
  | aging (g n die : Nat)
  | request (on : Bool)
  /-- A forced stop: where the full image goes, and the elements of the access at the PC that complete first. -/
  | fullImage (address : Word) (within : Nat)
  | entry (bucket entry : Nat)
  /-- A read of `len` bytes at an offset of BAR 0, 2 or 4 of a function. -/
  | hostRead (bar fn ofs len : Nat)
  | hostWrite (fn ofs : Nat) (bytes : List Byte)
  /-- A certificate that the host reads through the physical function (R397). -/
  | certificate (k : Fin 2)
  /-- A read through the monitor interface, or of the physical function's status register. -/
  | monitorRead (item : MonitorItem)
  /-- A flit with its sequence number, and whether its CRC is right. -/
  | flit (port : Nat) (flit : List Byte) (seq : Nat) (crcOk : Bool)
  | peer (port : Nat) (req : PeerRequest)
  /-- A sensor's new reading, in hundredths of a degree or of a per cent. -/
  | monitor (die : Nat) (sensor : Sensor) (reading : Int)
  /-- A code object, with the virtual address and the first page frame that firmware gives each section. -/
  | object (asid : Asid) (object : List Byte) (bases : List (Word × Nat))
  /-- A firmware image with its two signatures; its trap entry and the dump area of each die. -/
  | boot (image : List Byte) (ed25519 : BitVec 512) (mlDsa : BitVec 26472) (entry : Word) (dumps : List Nat)
  deriving DecidableEq, Repr

/-- The rows of spec/opcode_table.json: first the instructions that hold fields, in the table's order, then the
instructions that hold none, then the device's events. -/
inductive Instr where
  | add (o : GOp)
  | sub (o : GOp)
  | and (o : GOp)
  | or (o : GOp)
  | xor (o : GOp)
  | andn (o : GOp)
  | sll (o : GOp)
  | srl (o : GOp)
  | sra (o : GOp)
  | rol (o : GOp)
  | ror (o : GOp)
  | slt (o : GOp)
  | sltu (o : GOp)
  | min (o : GOp)
  | max (o : GOp)
  | minu (o : GOp)
  | maxu (o : GOp)
  | mul (o : GOp)
  | mulh (o : GOp)
  | mulhu (o : GOp)
  | div (o : GOp)
  | divu (o : GOp)
  | rem (o : GOp)
  | remu (o : GOp)
  | clz (o : GOp)
  | ctz (o : GOp)
  | cpop (o : GOp)
  | sel (o : GOp)
  | addi (o : GOp)
  | andi (o : GOp)
  | ori (o : GOp)
  | xori (o : GOp)
  | slli (o : GOp)
  | srli (o : GOp)
  | srai (o : GOp)
  | slti (o : GOp)
  | sltiu (o : GOp)
  | muli (o : GOp)
  | li (o : GOp)
  | lihi (o : GOp)
  | shadd (o : GOp)
  | bfx (o : GOp)
  | bfxs (o : GOp)
  | bfi (o : GOp)
  | beq (o : BOp)
  | bne (o : BOp)
  | blt (o : BOp)
  | bge (o : BOp)
  | bltu (o : BOp)
  | bgeu (o : BOp)
  | jal (o : BOp)
  | jalr (o : BOp)
  | loop (o : BOp)
  | loopn (o : BOp)
  | ldb (o : MOp)
  | ldh (o : MOp)
  | ldw (o : MOp)
  | ldd (o : MOp)
  | ldbu (o : MOp)
  | ldhu (o : MOp)
  | ldwu (o : MOp)
  | stb (o : MOp)
  | sth (o : MOp)
  | stw (o : MOp)
  | std (o : MOp)
  | setvl (o : GOp)
  | setvli (o : GOp)
  | setvty (o : GOp)
  | vadd (o : GOp)
  | vsub (o : GOp)
  | vrsub (o : GOp)
  | vmul (o : GOp)
  | vmulh (o : GOp)
  | vmulhu (o : GOp)
  | vmin (o : GOp)
  | vmax (o : GOp)
  | vminu (o : GOp)
  | vmaxu (o : GOp)
  | vand (o : GOp)
  | vor (o : GOp)
  | vxor (o : GOp)
  | vsll (o : GOp)
  | vsrl (o : GOp)
  | vsra (o : GOp)
  | vsadd (o : GOp)
  | vssub (o : GOp)
  | vsaddu (o : GOp)
  | vssubu (o : GOp)
  | vmacc (o : GOp)
  | vdiv (o : GOp)
  | vdivu (o : GOp)
  | vrem (o : GOp)
  | vremu (o : GOp)
  | vcmpeq (o : GOp)
  | vcmpne (o : GOp)
  | vcmplt (o : GOp)
  | vcmpltu (o : GOp)
  | vcmple (o : GOp)
  | vcmpleu (o : GOp)
  | vcmpgt (o : GOp)
  | vcmpgtu (o : GOp)
  | vfcmpeq (o : GOp)
  | vfcmplt (o : GOp)
  | vfcmple (o : GOp)
  | vfcmpun (o : GOp)
  | vfadd (o : GOp)
  | vfsub (o : GOp)
  | vfmul (o : GOp)
  | vfdiv (o : GOp)
  | vfsqrt (o : GOp)
  | vfmin (o : GOp)
  | vfmax (o : GOp)
  | vfma (o : GOp)
  | vfms (o : GOp)
  | vfnma (o : GOp)
  | vfabs (o : GOp)
  | vfneg (o : GOp)
  | vfsgnj (o : GOp)
  | vfexp2 (o : GOp)
  | vfclass (o : GOp)
  | vcvt (o : GOp)
  | vcvtbfp (o : GOp)
  | vcvtfbp (o : GOp)
  | vredsumO (o : GOp)
  | vredsumU (o : GOp)
  | vredsumi (o : GOp)
  | vredmax (o : GOp)
  | vredmin (o : GOp)
  | vredand (o : GOp)
  | vredor (o : GOp)
  | vredxor (o : GOp)
  | vscanO (o : GOp)
  | vscanU (o : GOp)
  | vscani (o : GOp)
  | vtopk (o : GOp)
  | vamax (o : GOp)
  | vmv (o : GOp)
  | vmvxs (o : GOp)
  | vmvsx (o : GOp)
  | vbcast (o : GOp)
  | vslup (o : GOp)
  | vsldn (o : GOp)
  | vperm (o : GOp)
  | vcompr (o : GOp)
  | viota (o : GOp)
  | vid (o : GOp)
  | vmerge (o : GOp)
  | vins (o : GOp)
  | mand (o : GOp)
  | mor (o : GOp)
  | mxor (o : GOp)
  | mnot (o : GOp)
  | mpopc (o : GOp)
  | mfirst (o : GOp)
  | mset (o : GOp)
  | mmv (o : GOp)
  | eset (o : GOp)
  | emv (o : GOp)
  | vld (o : MOp)
  | vlds (o : MOp)
  | vldx (o : MOp)
  | vgathb (o : MOp)
  | vldr (o : MOp)
  | vst (o : MOp)
  | vsts (o : MOp)
  | vstx (o : MOp)
  | eld (o : MOp)
  | est (o : MOp)
  | mld (o : MOp)
  | mst (o : MOp)
  | bsset (o : GOp)
  | bsld (o : GOp)
  | bsst (o : GOp)
  | dprod (o : GOp)
  | dcorr (o : GOp)
  | dapply (o : GOp)
  | azero (o : GOp)
  | adrain (o : GOp)
  | adrainm (o : GOp)
  | aread (o : GOp)
  | awrite (o : GOp)
  | amoswap (o : MOp)
  | amocas (o : MOp)
  | amoadd (o : MOp)
  | amoand (o : MOp)
  | amoor (o : MOp)
  | amoxor (o : MOp)
  | amomin (o : MOp)
  | amomax (o : MOp)
  | amominu (o : MOp)
  | amomaxu (o : MOp)
  | amofadd (o : MOp)
  | amofmax (o : MOp)
  | amoincw (o : MOp)
  | amoaddb (o : MOp)
  | vamo (o : MOp)
  | vfas (o : MOp)
  | copy (o : EOp)
  | copycv (o : EOp)
  | copyseg (o : EOp)
  | wsload (o : EOp)
  | mkout (o : EOp)
  | rinit (o : GOp)
  | rawait (o : GOp)
  | rrel (o : GOp)
  | rpeek (o : GOp)
  | son (o : GOp)
  | soff (o : GOp)
  | sstat (o : GOp)
  | binit (o : EOp)
  | bapp (o : EOp)
  | breplay (o : EOp)
  | bflush (o : EOp)
  | apld (o : GOp)
  | apst (o : GOp)
  | apset (o : GOp)
  | ralloc (o : GOp)
  | vfork (o : GOp)
  | vnarrow (o : GOp)
  | vsplit (o : GOp)
  | vdrop (o : GOp)
  | vinfo (o : GOp)
  | vexport (o : GOp)
  | vimport (o : GOp)
  | hgload (o : GOp)
  | hggrad (o : GOp)
  | hgcell (o : GOp)
  | launch (o : GOp)
  | wmark (o : GOp)
  | barj (o : GOp)
  | bara (o : GOp)
  | barw (o : GOp)
  | barl (o : GOp)
  | drain (o : GOp)
  | sleepu (o : GOp)
  | fence (o : GOp)
  | csrr (o : GOp)
  | csrw (o : GOp)
  | csrs (o : GOp)
  | csrc (o : GOp)
  | ecall (o : GOp)
  | brk (o : GOp)
  | tlbinv (o : GOp)
  | vsegld (o : MOp)
  | nop
  | agang0
  | agang4
  | agangBad
  | endTask
  | yieldpt
  | fenceRoHart
  | fenceRoCore
  | fenceRoPair
  | fenceRoDie
  | fenceRoPkg
  | fenceRoSys
  | fenceI
  | tret
  | wfi
  | dfan
  | vld1k
  | stripClose
  | diagonalEnginePick
  | tileReturn
  | commandCompletion
  | ladleFaultResume
  | rawaitWake
  | missedPromise
  | streamRefill
  | sieveApply
  | scraperFree
  | barwWake
  | drainDone
  | sleepuWake
  | wfiWake
  | trapReflect
  | taskKill
  | lqGo
  | lqOvfClear
  | registerWrite
  | graphValidation
  | nodeRelease
  | nodeCompletion
  | tilePlace
  | priorityAging
  | dispatcherWriteResume
  | preemptRequest
  | forcedStop
  | refreshWindowStart
  | refreshWindowEnd
  | migrationLineCopy
  | rdWritePerform
  | hostRead
  | hostWrite
  | brynedFlit
  | portDown
  | brynedRequest
  | coreStateError
  | watchdogExpiry
  | monitorEvent
  | throttleEscalate
  | budgetWindow
  | codeObjectLoad
  | boot
  | sieveFaultResume
  | accessPerform
  deriving DecidableEq, Repr

end Sys2Proof
end

