-- ==== Sys2Proof/Machine/State.lean ====
section
/-!
DEFINITION. The state of the package as plain data: the running hart, the other placed harts, memory and everything
the dies share, each with the rule that names it; and the state right after reset.
-/

namespace Sys2Proof.Machine

/-- A finite map held as a list of key and value pairs, keys strictly rising, no value equal to the default. -/
abbrev Store (α : Type) := List (Nat × α)

/-- A physical tile in use, or the four tiles of a gang (R164, R166). `cells` holds the non-zero cells by index;
`farCells` those of the follower core of a pair (R167). -/
structure Tile where
  win : Nat := 0
  gang : Bool := false
  cells : Store (BitVec 32) := []
  farCells : Store (BitVec 32) := []
  deriving DecidableEq, Repr

/-- What an accumulator name stands for (R165, R166). -/
inductive AcName where
  | unmapped
  | mapped (t : Tile)
  /-- One of the other three names of a gang. -/
  | member
  deriving DecidableEq, Repr

/-- The causes of a trap (R21). -/
inductive Cause where
  | illegalInstruction | illegalBranchTarget | malformedLine | lineParity | misalignedAccess | atomicAlignment | pageFault
  | protection | viewBound | widening | coverageSaturation | sharedWrite | fillIn | shiftRange | determinismViolation
  | missedPromise | barrierOrphaned | indexBound | ringMisuse | streamMisuse | weightStoreWrite | ecall | brk
  | retiredInstruction | gridDescriptor | poisonedData | protectedEgress | launchError
  deriving DecidableEq, Repr

/-- A failure of a read that the Ladle makes for a stream: its cause and address, whether a bad entry was met, the number of the
handle that a view bound names, and whether the access goes through that handle (R279, R360, R363). -/
structure Failure where
  cause : Cause
  addr : Word
  bad : Bool := false
  info : Word := 0
  covered : Bool := false
  deriving DecidableEq, Repr

/-- One element that the Ladle has read ahead for a stream: its bytes, or the failure that is held (R279). -/
inductive Held where
  | value (v : Nat)
  | failure (f : Failure)
  deriving DecidableEq, Repr

/-- A stream register's state (R277, R376); `number` is the handle register of its view. -/
structure Stream where
  pattern : APReg
  base : Word
  list : Word
  view : Option Handle
  number : Nat := 0
  pos : Nat := 0
  buf : List Held := []
  deriving DecidableEq, Repr

/-- A failure of an engine command that is still to be raised at the hart (R286). -/
structure Late where
  cause : Cause
  address : Word
  seq : BitVec 32
  /-- The state word of the ring slot that carries it, if any. -/
  slot : Option Word
  /-- It comes from an image, which does not hold its slot (R377). -/
  restored : Bool := false
  deriving DecidableEq, Repr

/-- Which tile of which node of which graph launch a hart runs (R189, R197). -/
structure TaskRef where
  graph : Nat
  node : Nat
  tile : Nat
  deriving DecidableEq, Repr

/-- What the node record gives a task beyond its CSRs (R190). -/
structure TaskInfo where
  ref : Option TaskRef := none
  donep : Word := 0
  savep : Word := 0
  /-- The watermark word of the node's watermark dependence. -/
  wmaddr : Option Word := none
  vregs : Nat := 64
  accs : Nat := 0
  mmrev : Nat := 2
  prio : Nat := 2
  restartable : Bool := false
  gang : Option Nat := none
  deriving DecidableEq, Repr

/-- Whether a hart slot runs a task. -/
inductive RunState where
  | idle
  | running
  deriving DecidableEq, Repr

/-- How far a synchronous LAUNCH has come that has pushed its graph (R194). -/
inductive Launched where
  /-- It waits for the validation of the graph with its ticket. -/
  | queued (ticket : Word)
  | passed
  /-- Validation has failed, and the error record is still to be written: the graph's number, the code, the failing record. -/
  | failed (graph code : Nat) (record : Word)
  deriving DecidableEq, Repr

/-- The vector and scale registers of one hart slot (R88, R95). -/
structure VFile where
  v : Vector VReg 64 := Vector.replicate 64 0
  e : Vector EReg 64 := Vector.replicate 64 0
  deriving DecidableEq, Repr

/-- The 64-bit control-status registers that are held as words (R16). HSTAT, VLENB, CYCLE and WSCAL are formed where they
are read; `slot` is HSTAT.SLOT. -/
structure Csrs where
  slot : BitVec 2 := 0
  coreid : Word := 0
  dieid : Word := 0
  vl : Word := 0
  vty : Word := 0
  stripn : Word := 0
  slip : Word := 4
  elx : Word := 0
  wmbase : Word := 0
  fflags : Word := 0
  frm : Word := 0
  srseed : Word := 0
  srbase : Word := 0
  dgdrop : Word := 0
  taskid : Word := 0
  nodeid : Word := 0
  taskn : Word := 0
  argp : Word := 0
  lidx : Vector Word 6 := Vector.replicate 6 0
  preempt : Word := 0
  /-- What firmware has written to WSCAL, and the calendar's value that it replaced (R15, R217). -/
  wscal : Option (Word × Word) := none
  retuse : Word := 0
  tvec : Word := 0
  epc : Word := 0
  ecause : Word := 0
  eaddr : Word := 0
  einfo : Word := 0
  budget : Word := 0
  togest : Word := 0
  deriving DecidableEq, Repr

/-- The event counters of a hart slot, which the monitor interface reads (R272). -/
structure HartCounters where
  decloss : BitVec 32 := 0
  slipstall : BitVec 32 := 0
  ldqwait : BitVec 32 := 0
  strwait : BitVec 32 := 0
  deriving DecidableEq, Repr

/-- The records of a page fault that are still to be written before the trap is taken (R362, R364): the access, its pages in
rising order with the lowest address, whether a bad entry was met and the elements of each, and what the trap writes. -/
structure FaultWrite where
  src : Nat
  write : Bool
  atomic : Bool
  covered : Bool
  pages : List (Word × Bool × Nat)
  addr : Word
  info : Word
  /-- The trap's PART is 0 (R76, R246, R279). -/
  whole : Bool
  deriving DecidableEq, Repr

/-- A line of 64 bytes held by a core as one read saw it (R33, R213), by its physical address, and its poisoned doublewords,
0 to 7, rising; and whether a slot or a load has used it, or it has only been fetched ahead. -/
structure CachedLine where
  die : Nat
  core : Nat
  address : Nat
  bits : Nat
  poison : List Nat
  used : Bool := true
  deriving DecidableEq, Repr

/-- The loop buffer of a hart slot (R74, R213): the addresses of the first and the last line of the body that replays, and the lines that it
holds. -/
structure LoopBuffer where
  first : Word
  last : Word
  held : List CachedLine := []
  deriving DecidableEq, Repr

/-- One hart slot and its task (R8 to R17, R95). -/
structure Hart where
  place : Place := {}
  run : RunState := .idle
  asid : Asid := 0
  pc : Word := 0
  /-- Control reached the slot at `pc` from the slot before it (R20, R28). -/
  sequential : Bool := false
  /-- The chip counter when control reached it: the dispatch time of a diagonal instruction (R170). -/
  arrived : Word := 0
  /-- HSTAT.PRIV is 0b11 (R15). -/
  firmware : Bool := false
  leader : Bool := false
  pair : Bool := false
  det : Bool := false
  x : Vector Word 64 := Vector.replicate 64 0
  own : VFile := {}
  /-- The follower core's slot-0 registers of a pair task (R167). -/
  far : VFile := {}
  /-- m1 to m7 at 1 to 7; position 0 is unused. -/
  m : Vector MReg 8 := Vector.replicate 8 0
  bs : Vector EReg 8 := Vector.replicate 8 0
  ap : Vector APReg 8 := Vector.replicate 8 0
  h : Vector Handle 16 := Vector.replicate 16 0
  ac : Vector AcName 8 := Vector.replicate 8 .unmapped
  /-- Tiles of the reserve that are retiring: older work still reads them (R165). -/
  retiring : Nat := 0
  streams : Vector (Option Stream) 16 := Vector.replicate 16 none
  csr : Csrs := {}
  task : TaskInfo := {}
  /-- Barrier memberships: address and phase (R203). -/
  bars : List (Word × Word) := []
  lates : List Late := []
  /-- The latest promise that the Ladle has given the hart (R288). -/
  promise : Word := 0
  counters : HartCounters := {}
  /-- Access-side registers whose value VMVXS, MPOPC or MFIRST wrote and no access-side instruction has read (R125). -/
  fromXu : BitVec 64 := 0
  /-- The instruction at `pc` that has begun to wait (R90, R203, R206, R297, R83). -/
  waiting : Option Instr := none
  /-- A page fault whose records have found too little room in the queue (R362). -/
  faulting : Option FaultWrite := none
  /-- A firmware event has been raised for this hart since it began to wait at a WFI (R83, R382). -/
  fwEvent : Bool := false
  /-- The chip-counter value at which a requested pre-emption forces a stop (R371). -/
  deadline : Option Word := none
  /-- The synchronous LAUNCH at `pc` has pushed its graph (R194). -/
  launched : Option Launched := none
  /-- The task has performed an act after which R380 does not rerun it. -/
  acted : Bool := false
  /-- Stores that the hart's later writes follow for every die: those it could have seen before an acquire or a fence at package
  scope (R261, R262). -/
  ordered : List Nat := []
  /-- Slots whose line firmware has refetched for this task after a line-parity trap (R365). -/
  refetched : List Word := []
  /-- The body of a taken LOOP or LOOPN that replays (R74). -/
  loop : Option LoopBuffer := none
  /-- Drops of the diagonal instruction just before, which a write of DGDROP that reads nothing does not clear (R180). -/
  landing : Nat := 0
  deriving DecidableEq, Repr

/-- The lane allocation table of a core (R97). -/
structure Lanes where
  alloc : Vector Nat 4 := Vector.replicate 4 0
  first : Nat := 0
  deriving DecidableEq, Repr

/-- The registers of the previous step of a core's diagonal engine (R169); empty lists after idleness. -/
structure PrevStep where
  a : List VReg := []
  b : List VReg := []
  deriving DecidableEq, Repr

/-- The owner tag of a scratchpad block: its context, if any has claimed it (R211). What firmware knows of the block's contents (R377; the
model's own): how many times others have taken the block's place, and the contents that firmware has moved to it, by the block and its count
where they began. -/
structure Tag where
  owner : Option Asid := none
  passed : Nat := 0
  moved : Option (Nat × Nat) := none
  deriving DecidableEq, Repr

/-- A TLB copy of a page-table entry (R231): the die that holds it, the core whose first-level TLB it is or none for the
die's second level, and the entry's 128 bits. -/
structure TlbCopy where
  die : Nat
  core : Option Nat
  entry : BitVec 128
  deriving DecidableEq, Repr

/-- A store that has performed for the agents of its die, and of the dies in `seen`, and not yet for the package (R259, R263,
R385); or one that is held at its hart while the replicas of a read-duplicated page are invalidated (R386). -/
structure PendStore where
  /-- Its number among the stores of the package. -/
  id : Nat
  place : Place
  held : Bool
  address : Nat
  bytes : List Byte
  /-- The bits of every byte that it writes (R146). -/
  mask : Byte := 0xFF
  /-- Its data derives from poisoned bytes (R214). -/
  poisoned : Bool := false
  /-- The handle register that it was made through, and its view then (R338). -/
  view : Option (Nat × Handle) := none
  /-- The context that it was made in. -/
  asid : Asid := 0
  /-- Its hart has executed a FENCE.RO since (R241). -/
  floored : Bool := false
  /-- The 64 KiB frames of the page whose replicas a held store waits for. -/
  frames : Nat := 1
  seen : List Nat := []
  /-- The stores that perform for every die before this one does (R262). -/
  after : List Nat := []
  deriving DecidableEq, Repr

/-- One side of an engine command: an element sequence, contiguous where it has no record (R274, R284). -/
structure Side where
  pattern : Option APReg
  /-- Bytes of an element. -/
  size : Nat
  base : Word
  list : Word := 0
  view : Option Handle := none
  deriving DecidableEq, Repr

/-- A drain of a tile through the Ladle, as it stood at dispatch (R300). -/
structure DrainJob where
  tile : Tile
  /-- The accumulator name; once its tile has retired, the number of the tile among those that its hart's drains hold. -/
  name : Nat
  retired : Option Nat := none
  fmt : Nat
  s0 : Nat
  ns : Nat
  /-- The rounding mode's code, the seed and the base of its random words (R115). -/
  mode : Nat
  seed : Word
  srbase : Word
  sat : Bool
  add : Bool
  maxAt : Option Word
  base : Word
  shape : APReg
  paired : Bool
  deriving DecidableEq, Repr

/-- What a pushed engine command does (R290 to R293, R300, R321, R394). A bin set is named by its
descriptor's physical address. -/
inductive CmdKind where
  | copy (n : Nat) (src dst : Side)
  | copyCv (n conv mode : Nat) (sat : Bool) (src dst : Side) (seed srbase : Word)
  | wsload (n : Nat) (src dst : Side)
  | mkout (src dst : Side) (w h delta : Nat) (identifier : Word) (counter : BitVec 32)
  | adrainm (job : DrainJob)
  | breplay (pa : Nat)
  | bflush (pa : Nat)
  deriving DecidableEq, Repr

/-- A range of the local scratchpad that a command reads or writes (R171, R289). -/
structure Claim where
  lo : Nat
  hi : Nat
  write : Bool
  deriving DecidableEq, Repr

/-- An engine command pushed and not complete (R285 to R289). -/
structure Cmd where
  place : Place
  asid : Asid
  kind : CmdKind
  after : Bool := false
  claims : List Claim := []
  /-- Stores that its writes follow for every die: what the push released (R264). -/
  ordered : List Nat := []
  /-- The engine has taken it from the command queue (R270, R287). -/
  taken : Bool := false
  ring : Option (Word × BitVec 32) := none
  /-- The value that its push wrote (R288). -/
  promise : Word := 0
  /-- The requester fields of a fault record (R363). -/
  epc : Word := 0
  taskid : Word := 0
  nodeid : Word := 0
  /-- Elements performed so far. -/
  done : Nat := 0
  /-- Waits for firmware to map a page (R286). -/
  blocked : Bool := false
  bytes : Nat := 0
  flags : BitVec 6 := 0
  /-- The failure that ended its accesses (R286). -/
  failure : Option (Cause × Word) := none
  /-- Every access of it has performed; its ring slot is still to be filled. -/
  isOver : Bool := false
  /-- Its ring slot is filled; WPTR is still to advance (R296). -/
  filled : Bool := false
  deriving DecidableEq, Repr

/-- An entry of a sub-bin: key (A, e), target index, value (R315); `at_` counts the entries taken since the sub-bin was empty. -/
structure BinEntry where
  count : Nat
  elem : Nat
  index : Nat
  value : BitVec 32
  at_ : Nat := 0
  deriving DecidableEq, Repr

/-- A tile's sub-bin (R315, R316). -/
structure SubBin where
  tile : Nat
  /-- BAPPs that the tile has made to the set: A of the next (R315). -/
  count : Nat := 0
  sealed : Bool := false
  /-- It holds one space of the pool, and which. -/
  space : Bool := false
  place : Nat := 0
  entries : List BinEntry := []
  /-- Entries that the append under way has put in: it waits at the horizon for the room of the others (R354). -/
  part : Nat := 0
  deriving DecidableEq, Repr

/-- An active bin set: what the Sieve holds of it (R314 to R317). -/
structure BinSet where
  asid : Asid
  die : Nat
  /-- The descriptor's address, and its physical address. -/
  address : Word
  pa : Nat
  tbase : Word
  tlen : Nat
  cap : Nat
  rsz : Nat
  int32 : Bool
  node : Nat
  graph : Option Nat
  nsub : Nat
  pool : Word
  horizon : Nat := 0
  flags : BitVec 6 := 0
  bins : List SubBin := []
  failure : Option (Cause × Word) := none
  /-- The pass waits for firmware to map the page of this address (R317). -/
  blocked : Option Word := none
  /-- Stores that its additions follow for every die: what the appends released (R264, R320). -/
  ordered : List Nat := []
  deriving DecidableEq, Repr

/-- A member of an active barrier (R203). -/
structure BarMember where
  place : Place
  /-- The task, which keeps its membership while it is pre-empted (R374). -/
  task : Option TaskRef
  /-- The address at which it joined. -/
  address : Word
  phase : Word
  deriving DecidableEq, Repr

/-- An active barrier, served by its home slice (R201 to R204). -/
structure Barrier where
  asid : Asid
  address : Word
  pa : Nat
  joins : Nat
  count : Nat
  owner : Nat
  graph : Option Nat
  members : List BarMember
  deriving DecidableEq, Repr

/-- A node record (R190). -/
structure NodeRec where
  entry : Word := 0
  argp : Word := 0
  ctrl : Word := 0
  wmnode : Option Nat := none
  preds : List Nat := []
  wmaddr : Word := 0
  donep : Word := 0
  aff : Word := 0
  savep : Word := 0
  deriving DecidableEq, Repr

/-- A block of 4,096 bytes of a core's scratchpad that firmware keeps for a pre-empted tile (R377): which of the 80 it is, the contents that
it is a copy of, its bytes and its poison, by offset in the block. -/
structure KeptBlock where
  tile : Nat
  block : Nat
  contents : Nat × Nat
  bytes : Store Byte
  poison : Store Bool
  deriving DecidableEq, Repr

/-- A pre-empted tile, as firmware and the device keep it beside its image (R269, R374, R380): the die that it left, whether it has performed
an act of R380, and the views that its handles and streams hold. -/
structure SavedTile where
  tile : Nat
  die : Nat
  acted : Bool
  views : List Handle
  deriving DecidableEq, Repr

/-- A node of a graph under way (R195 to R198). -/
structure Node where
  record : NodeRec
  released : Bool := false
  complete : Bool := false
  /-- The next tile that no die has placed (R197). -/
  next : Nat := 0
  /-- Tiles that have ended by END, and by a kill that is no rerun (R195, R204). -/
  ended : Nat := 0
  killed : Nat := 0
  /-- The first tile of each gang that has been rerun, once for each rerun (R380). -/
  reruns : List Nat := []
  /-- Tiles to place again: killed for a rerun (R380), or pre-empted (R378). -/
  again : List Nat := []
  saved : List SavedTile := []
  /-- What firmware keeps of the scratchpads for the pre-empted tiles (R377). -/
  kept : List KeptBlock := []
  /-- Steps of 4,096 cycles that the entry of each die has waited (R198). -/
  waited : Vector Nat 4 := Vector.replicate 4 0
  /-- When the entry of each die last had its turn, or arrived (R198). -/
  turn : Vector Nat 4 := Vector.replicate 4 0
  deriving DecidableEq, Repr

/-- A graph that has been validated (R189 to R196). -/
structure Graph where
  id : Nat
  asid : Asid
  header : Word
  errp : Word
  gdonep : Word
  nodes : List Node
  aborted : Bool := false
  complete : Bool := false
  deriving DecidableEq, Repr

/-- What a write of the dispatcher does to its word (R195, R196, R200). -/
inductive DispOp where
  /-- Write bytes: a zero, a raised watermark, an error record, GDONEP. -/
  | bytes (value n : Nat)
  /-- END: OR the flags and count the tile. -/
  | ended (flags : BitVec 6)
  | done
  | fail
  deriving DecidableEq, Repr

/-- A write of the dispatcher of a die that waits for a page (R410). -/
structure DispWrite where
  die : Nat
  asid : Asid
  graph : Nat
  node : Nat
  address : Word
  op : DispOp
  /-- A completion or watermark word: skipping it aborts the graph. -/
  completion : Bool
  /-- It is one of the writes that end a graph, which are made in order (R191, R196). -/
  ending : Bool := false
  /-- Its fault record has been written. -/
  told : Bool := false
  deriving DecidableEq, Repr

/-- A fault record (R363), as its 64 bytes. -/
abbrev FaultRecord := BitVec 512

/-- The fault record queue, the latent log, power and launching of one die. -/
structure Die where
  faultSeq : BitVec 32 := 0
  /-- Records written and not yet consumed, oldest first (R362). -/
  faults : List FaultRecord := []
  /-- Records that firmware has consumed, VALID clear, newest first: what still stands in the ring's slots. -/
  served : List FaultRecord := []
  /-- The hart in the middle of writing the records of one page fault, which have consecutive numbers (R364). -/
  writer : Option Place := none
  latent : BitVec 32 := 0
  /-- The latent log's entries, oldest first; at most 64 (R369, R407). -/
  latentLog : List (BitVec 512) := []
  launch : List (Asid × Word) := []
  launchSeq : Word := 0
  storeOwner : Option Asid := none
  charged : Nat := 0
  budgetUnits : Word := 0
  /-- The headroom threshold; none for its default (R408). -/
  threshold : Option Word := none
  deadline : Word := 360000
  /-- 0 no throttle, 1 class 3, 2 every class (R406). -/
  throttle : Nat := 0
  /-- The last reading of each sensor, in hundredths of a degree or of a per cent (R407). -/
  readings : List (Sensor × Int) := []
  /-- The thresholds of R406 in the same units: warning, throttle and shutdown of the temperature, the same of the voltage, and the drift
  of an oscillator. -/
  limits : Vector Nat 7 := #v[9500, 10000, 11500, 300, 500, 800, 400]
  /-- Monitor events raised to firmware. -/
  events : Nat := 0
  /-- Promises that the Ladle has missed (R288), and memory errors that the code has corrected (R214). -/
  missed : BitVec 32 := 0
  corrected : BitVec 32 := 0
  deriving DecidableEq, Repr

/-- A covered-region arena of a context (R324). `counts` holds ALLOC and COUNT by granule. -/
structure Arena where
  asid : Asid
  base : Word
  granules : Nat
  counts : Store (BitVec 16) := []
  deriving DecidableEq, Repr

/-- A slot of an export table (R336): its generation and the view it holds. -/
structure ExportSlot where
  generation : Nat
  view : Option Handle
  retired : Bool := false
  deriving DecidableEq, Repr

/-- A launch queue of a function (R193). -/
structure LaunchQueue where
  gaddr : Word := 0
  ovf : Bool := false
  queue : List (Asid × Word) := []
  deriving DecidableEq, Repr

/-- A Bryned port (R388). -/
structure Port where
  down : Bool := false
  expected : Nat := 0
  failed : Nat := 0
  errors : Nat := 0
  received : List (List Byte) := []
  deriving DecidableEq, Repr

/-- What one context's mark unit holds (R394). -/
structure Mark where
  identifier : Word := 0
  counter : Nat := 0
  deriving DecidableEq, Repr

/-- A symbol that a context holds (R402): name, section, binding, value, body digest. -/
structure Symbol where
  name : List Byte
  kind : Nat
  bind : Nat
  value : Word
  digest : Nat
  deriving DecidableEq, Repr

/-- An entry of the task table of an object (R57, R400): the task's name and entry PC, its stack in bytes and its attributes, in the bit
positions of a node record's word. -/
structure TaskEntry where
  name : List Byte
  entry : Word
  stack : Nat
  attributes : Word
  deriving DecidableEq, Repr

/-- What a context keeps of an object that it has loaded beside its symbols (R399, R400): revision, features, tasks, and the OPC, FN and
count of each retired use. -/
structure LoadedObject where
  mmrev : Nat
  features : Nat
  tasks : List TaskEntry
  retired : List (Nat × Nat × Nat)
  deriving DecidableEq, Repr

/-- Why the device has stopped (R381). -/
inductive Fatal where
  | firmwareTrap | serviceCore | watchdog | shutdown
  deriving DecidableEq, Repr

/-- What a fatal event leaves for the dump (R381). -/
structure FatalReport where
  why : Fatal
  place : Place := {}
  epc : Word := 0
  ecause : Word := 0
  eaddr : Word := 0
  einfo : Word := 0
  deriving DecidableEq, Repr

/-- What comes next, before the running hart's next instruction: the model's own list of inputs.
A statement about every state covers every such list. -/
inductive Agenda where
  /-- A step of the device. -/
  | event (i : Instr) (arg : EventArg)
  /-- Another placed hart runs on. -/
  | turn (p : Place)
  /-- The chip counter advances. -/
  | tick (cycles : Nat)
  /-- A TLB copy, a fetched line or a read-only line is dropped (timing, R213, R231). -/
  | evictTlb (k : Nat)
  | evictFetch (k : Nat)
  | evictReadOnly (k : Nat)
  /-- The running hart's core fetches a line ahead, for its instructions or for its read-only path (R213, R369). -/
  | prefetch (exec : Bool) (address : Word)
  /-- An uncorrectable error poisons a doubleword (R214); a soft error flips a bit of a fetched line that a core holds (R33). -/
  | memoryError (address : Nat)
  /-- An error of a die's memories is corrected (R214). -/
  | correctedError (die : Nat)
  | lineError (k bit : Nat)
  /-- A soft error flips a bit of a line in the running hart's loop buffer (R33, R74). -/
  | loopError (k bit : Nat)
  /-- A core's diagonal engine falls idle (R169). -/
  | engineIdle (die core : Nat)
  /-- Firmware clears VALID of a die's oldest fault record (R362). -/
  | consumeFault (die : Nat)
  /-- Firmware writes a page-table entry where a walk for its key finds it (R227, R365). -/
  | mapPage (entry : BitVec 128)
  deriving DecidableEq, Repr

/-- The state of the package. -/
structure State where
  /-- The hart whose instruction runs next. -/
  hart : Hart := {}
  /-- The other placed harts. -/
  parked : List Hart := []
  agenda : List Agenda := []
  /-- The argument of the event that runs now. -/
  arg : EventArg := .none
  /-- How many of the values that the spec leaves open have been taken. The model's own field. -/
  choices : Nat := 0
  /-- Memory by physical address; a scratchpad lies above the physical space (R210, R219). -/
  mem : Store Byte := []
  /-- Poisoned doublewords, by address div 8 (R214). -/
  poison : Store Bool := []
  /-- Stores that have not performed for every agent; of two that write a common byte, the one listed first comes first in the
  byte's write order (R260). -/
  pend : List PendStore := []
  /-- Stores that have been numbered. The model's own field. -/
  storeSeq : Nat := 0
  tags : Store Tag := []
  tlb : List TlbCopy := []
  fetched : List CachedLine := []
  readOnly : List CachedLine := []
  lanes : Store Lanes := []
  steps : Store PrevStep := []
  cycle : Word := 0
  ptbase : Nat := 0
  ptlog2 : Nat := 10
  /-- The resident firmware's trap entry, fixed at boot (R22). -/
  trapEntry : Word := 0
  /-- The event counters of hart slots that no task holds, by the slot's number: they stand until the next task's start (R272, R407). -/
  slotCounters : Store HartCounters := []
  dies : Vector Die 4 := Vector.replicate 4 {}
  cmds : List Cmd := []
  sets : List BinSet := []
  barriers : List Barrier := []
  graphs : List Graph := []
  nextGraph : Nat := 0
  /-- Turns that the dispatchers have given to entries (R198). -/
  turns : Nat := 0
  dispWrites : List DispWrite := []
  arenas : List Arena := []
  exports : List (Asid × List ExportSlot) := []
  queues : Store LaunchQueue := []
  assigned : Store Nat := []
  bar2 : Store Word := []
  replicas : Store Nat := []
  /-- The peer of each window of the system route table, and the physical address there (R389); none is the host link. -/
  routes : Store (Option (Nat × Nat)) := []
  grants : Store Bool := []
  marks : Store Mark := []
  ports : Store Port := []
  registers : Store Word := []
  symbols : List (Asid × List Symbol) := []
  /-- The objects that each context has loaded, newest first (R399 to R402). -/
  objects : List (Asid × LoadedObject) := []
  /-- The bytes of the last host read, or none when it ended with a completer abort (R391). -/
  hostData : Option (List Byte) := none
  /-- Refusals logged in each function's error register (R391). -/
  hostErrors : Store Nat := []
  /-- The last answer to a Bryned peer. -/
  peerData : Option (List Byte) := none
  /-- The physical function's status register: the last boot failed (R397). -/
  bootFailed : Bool := false
  /-- The physical base of each die's dump area, named at boot (R381). -/
  dumps : List Nat := []
  fatal : Option FatalReport := none
  deriving DecidableEq, Repr

/-- Why the machine stops: no rule of the spec stops it. A fatal error stops its harts, and the host still reads the dump (R381). -/
inductive Fault where
  deriving DecidableEq, Repr

/-- Why a step is refused. -/
inductive Refusal where
  /-- Raised by the dispatch for an instruction without a meaning in this model. Safe: nothing can be proved of it. -/
  | notModelled (mnemonic : String)
  deriving DecidableEq, Repr

/-- The state right after reset: no task placed, nothing in memory, every queue empty; the registers of the running
hart's slot at the values that R13 and R16 give a task's start. -/
def State.reset : State :=
  { hart := { x := (Vector.replicate 64 (0 : Word)).set 2 0x00FFFFFFFFF50000 } }

end Sys2Proof.Machine
end

