-- ==== Sys2Proof/Machine/Store.lean ====
section
/-!
DEFINITION. Operations on `Store`, the sparse maps of the state, and their canonical form.
-/

namespace Sys2Proof.Machine

/-- The value at a key; `d` where the key is not listed. -/
def Store.get {α : Type} (d : α) : Store α → Nat → α
  | [], _ => d
  | (k, v) :: rest, a => if k = a then v else Store.get d rest a

/-- The list without a key. -/
def Store.erase {α : Type} : Store α → Nat → Store α
  | [], _ => []
  | (k, v) :: rest, a => if k = a then Store.erase rest a else (k, v) :: Store.erase rest a

/-- Insert before the first greater key. -/
def Store.insert {α : Type} : Store α → Nat → α → Store α
  | [], a, x => [(a, x)]
  | (k, v) :: rest, a, x => if a < k then (a, x) :: (k, v) :: rest else (k, v) :: Store.insert rest a x

/-- Write a key. A value equal to the default removes the key, so that equal maps are equal lists. -/
def Store.set {α : Type} [DecidableEq α] (d : α) (s : Store α) (a : Nat) (x : α) : Store α :=
  if x = d then s.erase a else (s.erase a).insert a x

/-- The list without the keys from `lo` up to but not including `hi`. -/
def Store.eraseRange {α : Type} (s : Store α) (lo hi : Nat) : Store α :=
  s.filter fun p => !(decide (lo ≤ p.1) && decide (p.1 < hi))

/-- The part of a list between two keys, its keys counted from the lower one. -/
def Store.slice {α : Type} (s : Store α) (lo hi : Nat) : Store α :=
  (s.filter fun p => decide (lo ≤ p.1) && decide (p.1 < hi)).map fun p => (p.1 - lo, p.2)

/-- Write a part from a key on. -/
def Store.paste {α : Type} [DecidableEq α] (d : α) (s : Store α) (lo : Nat) (part : Store α) : Store α :=
  part.foldl (fun s p => Store.set d s (lo + p.1) p.2) s

/-- The canonical form: keys strictly rising, no listed value equal to the default. -/
abbrev Store.Wf {α : Type} (d : α) (s : Store α) : Prop :=
  (s.map Prod.fst).Pairwise (· < ·) ∧ ∀ p ∈ s, p.2 ≠ d

/-- The canonical form of memory: an unlisted byte reads as zero (notes/assumptions/5.md). -/
abbrev Memory.wf (m : Store Byte) : Prop := Store.Wf (0 : Byte) m

end Sys2Proof.Machine
end

