-- ==== Sys2Proof/Machine/Ops.lean ====
section
/-!
DEFINITION. The operations that every meaning shares: the effect type of an instruction, the register files, program
counters, taking a trap and returning from one, and the completion of an instruction.
-/

namespace Sys2Proof.Machine

/-- A trap that an instruction raises (R20 to R22, R360). -/
structure Trap where
  cause : Cause
  addr : Word := 0
  info : Word := 0
  /-- EPC is the next PC in sequence (ECALL, BRK). -/
  after : Bool := false
  /-- Raised by the fetch of a line or the checks of R32 at a slot reached in sequence (R20). -/
  seqf : Bool := false
  /-- The rule of the access gives PART as 0: the page fault of a scalar access or of a pop, and any fault on a descriptor of VLDR (R76, R246,
  R279, R309). -/
  whole : Bool := false
  deriving DecidableEq, Repr

/-- Why an instruction does not complete now. -/
inductive Stop where
  | trap (t : Trap)
  /-- It waits: it has not executed and runs again in full (R90). -/
  | wait
  deriving DecidableEq, Repr

/-- An effect on the state that may stop. -/
abbrev Op := EStateM Stop State

/-- Where control goes when an instruction completes. -/
inductive Flow where
  | next
  /-- A transfer (R28). -/
  | goto (pc : Word)
  /-- The instruction has placed the hart itself. -/
  | placed
  /-- As `next`, after a diagonal instruction: its drops may still be landing (R180). -/
  | dropped (n : Nat)
  deriving DecidableEq, Repr

def trap {α : Type} (cause : Cause) (addr : Word := 0) (info : Word := 0) : Op α :=
  throw (.trap { cause, addr, info })

/-- Raise a trap when the condition holds. -/
def trapIf (b : Bool) (cause : Cause) (addr : Word := 0) (info : Word := 0) : Op Unit :=
  if b then trap cause addr info else pure ()

def wait {α : Type} : Op α := throw .wait

def illegal {α : Type} (info : Word := 0) : Op α := trap .illegalInstruction 0 info

def illegalIf (b : Bool) : Op Unit := if b then illegal else pure ()

/-- Run a check that answers a trap or a value. -/
def check {α : Type} (r : Except Trap α) : Op α :=
  match r with
  | .ok a => pure a
  | .error t => throw (.trap t)

/-- An access whose faults have PART 0 (R292, R309, R404; notes/assumptions/72.md). -/
def wholly {α : Type} (m : Op α) : Op α :=
  tryCatch m fun e => match e with
    | .trap t => throw (.trap { t with whole := true })
    | .wait => wait

/-- The cause codes of ECAUSE (R21). -/
def Cause.code : Cause → Nat
  | .illegalInstruction => 0x01
  | .illegalBranchTarget => 0x02
  | .malformedLine => 0x03
  | .lineParity => 0x04
  | .misalignedAccess => 0x05
  | .atomicAlignment => 0x06
  | .pageFault => 0x07
  | .protection => 0x08
  | .viewBound => 0x09
  | .widening => 0x0A
  | .coverageSaturation => 0x0B
  | .sharedWrite => 0x0C
  | .fillIn => 0x0D
  | .shiftRange => 0x0E
  | .determinismViolation => 0x0F
  | .missedPromise => 0x10
  | .barrierOrphaned => 0x11
  | .indexBound => 0x12
  | .ringMisuse => 0x13
  | .streamMisuse => 0x14
  | .weightStoreWrite => 0x15
  | .ecall => 0x16
  | .brk => 0x17
  | .retiredInstruction => 0x18
  | .gridDescriptor => 0x19
  | .poisonedData => 0x1A
  | .protectedEgress => 0x1B
  | .launchError => 0x1C

/-! Plain bit helpers. -/

/-- Bits `lo` to `lo + n - 1` of a number. -/
def bitsAt (v lo n : Nat) : Nat := v / 2 ^ lo % 2 ^ n

/-- `v` with bits `lo` to `lo + n - 1` replaced by the low bits of `x`. -/
def putBits (v lo n x : Nat) : Nat :=
  v - bitsAt v lo n * 2 ^ lo + x % 2 ^ n * 2 ^ lo

/-- The number of ones among the low `n` bits. -/
def popCount (n v : Nat) : Nat := (List.range n).foldl (fun c k => if v.testBit k then c + 1 else c) 0

/-- A two's-complement number of `n` bits read as signed. -/
def toSigned (n v : Nat) : Int := if v % 2 ^ n < 2 ^ (n - 1) then (v % 2 ^ n : Int) else (v % 2 ^ n : Int) - 2 ^ n

/-- The low `n` bits of an integer in two's complement. -/
def ofSigned (n : Nat) (i : Int) : Nat := (i % 2 ^ n).toNat

/-- Division rounding up; 0 where the divisor is 0. -/
def ceilDiv (a b : Nat) : Nat := (a + b - 1) / b

/-- The little-endian number of a list of bytes (R4). -/
def ofBytes : List Byte → Nat
  | [] => 0
  | b :: rest => b.toNat + 256 * ofBytes rest

/-- The `n` little-endian bytes of a number (R4). -/
def toBytes : Nat → Nat → List Byte
  | 0, _ => []
  | n + 1, v => BitVec.ofNat 8 v :: toBytes n (v / 256)

/-- Insert into a rising list; a number that it holds already is not repeated. -/
def insertDistinct (a : Nat) : List Nat → List Nat
  | [] => [a]
  | b :: rest => if a < b then a :: b :: rest else if a = b then b :: rest else b :: insertDistinct a rest

/-- The distinct numbers of a list, rising. -/
def sortDistinct (l : List Nat) : List Nat := l.foldr insertDistinct []

def word (n : Nat) : Word := BitVec.ofNat 64 n

/-- A signed 32-bit offset as 64 bits. -/
def sext32 (i : BitVec 32) : Word := i.signExtend 64

/-! The hart's registers (R10, R95). Register 0 reads zero and drops writes. -/

def Hart.getX (h : Hart) (r : Reg) : Word := if r = 0 then 0 else h.x[r.toNat]'r.isLt

def Hart.setX (h : Hart) (r : Reg) (v : Word) : Hart :=
  if r = 0 then h else { h with x := h.x.set r.toNat v r.isLt, fromXu := h.fromXu &&& ~~~(1#64 <<< r.toNat) }

/-- Registers of a file that a six-bit field may outrun: a decoded field is within the file (R37). -/
def Hart.getBS (h : Hart) (r : Nat) : EReg := h.bs.getD r 0
def Hart.setBS (h : Hart) (r : Nat) (v : EReg) : Hart := { h with bs := h.bs.setIfInBounds r v }
def Hart.getAP (h : Hart) (r : Nat) : APReg := h.ap.getD r 0
def Hart.setAP (h : Hart) (r : Nat) (v : APReg) : Hart := { h with ap := h.ap.setIfInBounds r v }
def Hart.getH (h : Hart) (r : Nat) : Handle := h.h.getD r 0
def Hart.setH (h : Hart) (r : Nat) (v : Handle) : Hart := { h with h := h.h.setIfInBounds r v }
def Hart.getAC (h : Hart) (r : Nat) : AcName := h.ac.getD r .unmapped
def Hart.setAC (h : Hart) (r : Nat) (v : AcName) : Hart := { h with ac := h.ac.setIfInBounds r v }
/-- m0 is no register: it reads zero and a write to it is dropped. m7 reads zero while ELX is zero (R94). -/
def Hart.getM (h : Hart) (r : Nat) : MReg := if r = 0 ∨ (r = 7 ∧ h.csr.elx = 0) then 0 else h.m.getD r 0
def Hart.setM (h : Hart) (r : Nat) (v : MReg) : Hart := if r = 0 then h else { h with m := h.m.setIfInBounds r v }

def State.x (s : State) (r : Reg) : Word := s.hart.getX r

def modHart (f : Hart → Hart) : Op Unit := modify fun s => { s with hart := f s.hart }

def setX (r : Reg) (v : Word) : Op Unit := modHart (·.setX r v)

/-- The hart has performed an act after which its task may not be rerun (R380); an atomic of any scope is one (notes/assumptions/99.md). -/
def markActed : Op Unit := modHart fun h => { h with acted := true }

def modCsr (f : Csrs → Csrs) : Op Unit := modHart fun h => { h with csr := f h.csr }

/-- Write a scalar register from the execute unit by VMVXS, MPOPC or MFIRST (R125). -/
def Hart.setXFromXu (h : Hart) (r : Reg) (v : Word) : Hart :=
  let h := h.setX r v
  if r = 0 ∨ 32 ≤ r.toNat then h else { h with fromXu := h.fromXu ||| 1#64 <<< r.toNat }

/-- Add one to a counter that saturates. -/
def satIncr (c : BitVec 32) : BitVec 32 := if c = 0xFFFFFFFF then c else c + 1

/-- The access unit waits for a value of the execute unit: one loss of decoupling (R11, R272). An instruction that runs again because
it waits has counted its loss. -/
def Hart.loseDecoupling (h : Hart) : Hart :=
  if h.waiting.isSome then h else
  { h with counters := { h.counters with decloss := satIncr h.counters.decloss } }

/-- A source that the access unit has to wait for. -/
def Hart.waitsFor (h : Hart) (r : Reg) : Bool := 32 ≤ r.toNat || h.fromXu.getLsbD r.toNat

/-- The access unit reads scalar registers: an execute-side one costs one loss of decoupling (R11, R125, R272). -/
def Hart.auRead (h : Hart) (srcs : List Reg) : Hart :=
  let seen := srcs.foldl (fun m r => m ||| 1#64 <<< r.toNat) 0#64
  let h' := if srcs.any h.waitsFor then h.loseDecoupling else h
  { h' with fromXu := h.fromXu &&& ~~~seen }

def auReads (srcs : List Reg) : Op Unit := modHart (·.auRead srcs)

/-- The ASID of the running hart's accesses: firmware runs in address space 0 (R223). -/
def Hart.accessAsid (h : Hart) : Asid := if h.firmware then 0 else h.asid

/-- The harts that the cores hold. -/
def State.harts (s : State) : List Hart := s.hart :: s.parked

/-- A core's number in the package. -/
def coreKey (die core : Nat) : Nat := die * 40 + core

/-- A hart slot's number in the package. -/
def Place.key (p : Place) : Nat := coreKey p.die p.core * 4 + p.slot

/-- The die's part of the state. -/
def State.die (s : State) (d : Nat) : Die := s.dies.getD d {}

def State.setDie (s : State) (d : Nat) (v : Die) : State := { s with dies := s.dies.setIfInBounds d v }

/-- The hart placed at a slot, changed by `f`. -/
def State.mapHart (s : State) (p : Place) (f : Hart → Hart) : State :=
  if s.hart.place = p then { s with hart := f s.hart }
  else { s with parked := s.parked.map fun h => if h.place = p then f h else h }

/-- Another placed hart runs on. -/
def State.turnTo (s : State) (p : Place) : State :=
  match s.parked.find? fun h => h.place == p with
  | none => s
  | some h =>
    let others := s.parked.filter fun h => h.place != p
    { s with hart := h, parked := if s.hart.run = .idle then others else s.hart :: others }

/-- The next value that the spec leaves open. -/
def State.popChoice (s : State) : State × Nat := ({ s with choices := s.choices + 1 }, Config.freeChoice s.choices)

/-- As `State.popChoice`. -/
def choose : Op Nat := do
  let (s, c) := (← get).popChoice
  set s
  pure c

/-! Program counters (R8). -/

def isPc (v : Word) : Bool := v.toNat % 64 ≤ 4

def pcSlot (v : Word) : Nat := v.toNat % 8

/-- Byte address of the fetch line. -/
def pcLine (v : Word) : Word := v &&& ~~~(63#64)

/-- The next PC in sequence. -/
def nextPc (v : Word) : Word := if pcSlot v = 4 then pcLine v + 64 else v + 1

/-- The fixed target of format B (R36). -/
def fixedTarget (pc : Word) (loff : BitVec 29) (tslot : BitVec 3) : Word :=
  ((pcLine pc >>> 6) + loff.signExtend 64) <<< 6 ||| tslot.setWidth 64

/-! The fields of a page-table entry (R225). -/

abbrev Entry := BitVec 128

def Entry.asid (e : Entry) : Nat := bitsAt e.toNat 116 12
def Entry.vpn (e : Entry) : Nat := bitsAt e.toNat 76 40
def Entry.frame (e : Entry) : Nat := bitsAt e.toNat 40 36
def Entry.size (e : Entry) : Nat := bitsAt e.toNat 38 2
def Entry.cls (e : Entry) : Nat := bitsAt e.toNat 36 2
def Entry.readable (e : Entry) : Bool := e.getLsbD 35
def Entry.writable (e : Entry) : Bool := e.getLsbD 34
def Entry.executable (e : Entry) : Bool := e.getLsbD 33
def Entry.global (e : Entry) : Bool := e.getLsbD 32
def Entry.dirty (e : Entry) : Bool := e.getLsbD 30
def Entry.duplicated (e : Entry) : Bool := e.getLsbD 29
def Entry.migrating (e : Entry) : Bool := e.getLsbD 28
def Entry.kind (e : Entry) : Nat := bitsAt e.toNat 1 2
def Entry.valid (e : Entry) : Bool := e.getLsbD 0
def Entry.free (e : Entry) : Bool := !e.valid && e.kind == 0
def Entry.companion (e : Entry) : Bool := !e.valid && e.kind == 1

/-- log2 of the page's bytes in units of 64 KiB (R223); an entry with SIZE 0b11 is met as a 64 KiB page and is bad. -/
def sizeShift (size : Nat) : Nat := if size = 1 then 5 else if size = 2 then 11 else 0

/-- The page of `size` that holds page number `vpn` is the one this entry names (R227). -/
def Entry.matches (e : Entry) (size : Nat) (asid : Asid) (vpn : Nat) : Bool :=
  e.valid && e.asid == asid.toNat && (e.size == size || (e.size == 3 && size == 0)) &&
  e.vpn / 2 ^ sizeShift size == vpn / 2 ^ sizeShift size

/-- Drop the TLB copies that serve an address at a place: a fault that a walk has confirmed leaves none of them (R230). -/
def State.dropCopies (s : State) (p : Place) (asid : Asid) (va : Word) : State :=
  { s with tlb := s.tlb.filter fun c => !(c.die == p.die && (c.core == none || c.core == some p.core) &&
      Entry.matches c.entry (Entry.size c.entry) asid (bitsAt va.toNat 16 40)) }

/-! Stopping, trapping, completing. -/

/-- A fatal error stops every hart (R24, R381). -/
def State.stopDevice (s : State) (r : FatalReport) : State := { s with fatal := some r }

/-- ECAUSE as a trap writes it (R20). PART is set where ELX is not zero (R22), but for an access whose own rule gives PART as 0
(DEDUCED, notes/assumptions/72.md). -/
def causeWord (h : Hart) (t : Trap) : Word :=
  word (t.cause.code + (if !t.whole && h.csr.elx != 0 then 0x100 else 0) + (if h.firmware then 0x600 else 0) +
    (if t.seqf then 0x800 else 0))

/-- Taking a trap, as one step (R22); at firmware privilege it is fatal (R24). ELX and m7 already hold the progress. A confirmed
protection fault drops the TLB copies of its address (R230), as a page fault's record does. -/
def State.takeTrap (s : State) (t : Trap) : State :=
  let s := if t.cause = .protection then s.dropCopies s.hart.place s.hart.accessAsid t.addr else s
  let h := s.hart
  let epc := if t.after then nextPc h.pc else h.pc
  if h.firmware then
    s.stopDevice { why := .firmwareTrap, place := h.place, epc, ecause := causeWord h t, eaddr := t.addr, einfo := t.info }
  else
    { s with hart := { h with
        csr := { h.csr with
          epc
          ecause := causeWord h t
          eaddr := t.addr
          einfo := t.info }
        firmware := true
        pc := s.trapEntry
        sequential := false
        arrived := s.cycle
        waiting := none
        landing := 0 } }

/-- A firmware event for the harts of a die, or of one core of it: it ends a WFI that has begun (R83, R382). -/
def State.raiseEvent (s : State) (die : Nat) (core : Option Nat) : State :=
  let f (h : Hart) : Hart :=
    if h.waiting == some .wfi && h.place.die == die && (core.isNone || core == some h.place.core) then { h with fwEvent := true } else h
  { s with hart := f s.hart, parked := s.parked.map f }

/-- The chip counter advances to a value, and no further than its last (R81); a deadline that passes is a firmware event for its
core (R382). -/
def State.advanceTo (s : State) (t : Nat) : State :=
  let now := word (min t (2 ^ 64 - 1))
  let late := s.harts.filter fun h => h.deadline.elim false fun d => decide (s.cycle < d) && decide (d ≤ now)
  late.foldl (fun s h => s.raiseEvent h.place.die (some h.place.core)) { s with cycle := now }

def State.tick (s : State) (n : Nat) : State := s.advanceTo (s.cycle.toNat + n)

/-- A wait leaves the hart at the instruction (R90). -/
def State.waitAt (s : State) (i : Instr) : State :=
  { s with hart := { s.hart with waiting := some i } }

/-- An instruction completes: control moves on, and at task privilege ELX and m7 become zero (R9, R94). At firmware
privilege they belong to the instruction that was interrupted and are kept for TRET (R25). -/
def State.complete (s : State) (f : Flow) : State :=
  let h := s.hart
  let h := { h with waiting := none, landing := 0 }
  let h := if h.firmware then h else { h.setM 7 0 with csr := { h.csr with elx := 0 } }
  match f with
  | .next => { s with hart := { h with pc := nextPc h.pc, sequential := true, arrived := s.cycle } }
  | .dropped n => { s with hart := { h with pc := nextPc h.pc, sequential := true, arrived := s.cycle, landing := n } }
  | .goto pc => { s with hart := { h with pc := pc, sequential := false, arrived := s.cycle } }
  | .placed => { s with hart := { s.hart with arrived := s.cycle } }

/-- Run an instruction: it completes, traps or waits. Every outcome is a next state. -/
def finish (i : Instr) (body : Op Flow) (s : State) : Host.Outcome State Fault Refusal :=
  match body s with
  | .ok f t => .next (t.complete f)
  | .error (.trap c) t => .next (t.takeTrap c)
  | .error .wait t => .next (t.waitAt i)

/-- An instruction after which control continues in sequence. -/
def finishNext (i : Instr) (body : Op Unit) (s : State) : Host.Outcome State Fault Refusal :=
  finish i (do body; pure .next) s

end Sys2Proof.Machine
end

