-- ==== Sys2Proof/Machine/Bytes.lean ====
section
/-!
DEFINITION. The bytes and the poison of memory as an agent sees them, the peers behind the Bryned windows, and the stores that have not
performed for every agent: when they do, releases and acquires (11:R214; 14:R259 to R263; 23:R385, R386, R388, R389).
-/

namespace Sys2Proof.Machine

/-- Little-endian bytes of physical memory as they stand at package scope. -/
def State.memNat (s : State) (pa : Nat) : Nat → Nat
  | 0 => 0
  | n + 1 => (s.mem.get 0 pa).toNat + 256 * s.memNat (pa + 1) n

def State.setMemBytes (s : State) (pa : Nat) : List Byte → State
  | [] => s
  | b :: rest => State.setMemBytes { s with mem := s.mem.set 0 pa b } (pa + 1) rest

/-! Bytes as an agent sees them. -/

/-- An agent at a place sees the store: it has performed for the agent's die (R385), or it is held at the agent's hart (R386). -/
def PendStore.visible (p : PendStore) (q : Place) : Bool :=
  if p.held then p.place == q else p.place.die == q.die || p.seen.contains q.die

def PendStore.overlaps (p : PendStore) (pa n : Nat) : Bool := decide (p.address < pa + n) && decide (pa < p.address + p.bytes.length)

/-- A byte with the bits of a mask replaced. -/
def mergeByte (mask new old : Byte) : Byte := (old &&& ~~~mask) ||| (new &&& mask)

/-- A byte after a store, where the store writes it. -/
def PendStore.onto (p : PendStore) (pa : Nat) (old : Byte) : Byte :=
  if p.overlaps pa 1 then mergeByte p.mask (p.bytes.getD (pa - p.address) 0) old else old

/-- The byte that an agent at a place reads at an address whose bytes lie at `src` on its die: what the stores that it sees
leave, the youngest last. -/
def State.byteFrom (s : State) (q : Place) (pa src : Nat) : Byte :=
  s.pend.foldl (fun b p => if p.visible q then p.onto pa b else b) (s.mem.get 0 src)

def State.byteAt (s : State) (q : Place) (pa : Nat) : Byte := s.byteFrom q pa pa

/-- An agent of a die that is no hart: the walker, a line fetch, a dispatcher, the Sieve. It sees no store that a hart holds. -/
def dieUnit (die : Nat) : Place := { die, core := 0xFF, slot := 3 }

/-- OR bits into the live value of a byte, as a home slice does for an agent of a die: into the youngest store that writes them there
and that the die's agents see, else into memory (R228, R229). -/
def State.orBits (s : State) (die pa : Nat) (bits : Byte) : State :=
  match (s.pend.zipIdx.filter fun p => p.1.visible (dieUnit die) && p.1.overlaps pa 1 && p.1.mask &&& bits == bits).getLast? with
  | some (p, k) => { s with pend := s.pend.set k { p with bytes := p.bytes.modify (pa - p.address) (· ||| bits) } }
  | none => { s with mem := s.mem.set 0 pa (s.mem.get 0 pa ||| bits) }

/-- `n` bytes, little-endian. -/
def State.readFrom (s : State) (q : Place) (pa src : Nat) : Nat → Nat
  | 0 => 0
  | n + 1 => (s.byteFrom q pa src).toNat + 256 * s.readFrom q (pa + 1) (src + 1) n

def State.readNat (s : State) (q : Place) (pa n : Nat) : Nat := s.readFrom q pa pa n

/-! Poison (R214): a mark by doubleword, which a store takes with it (R385). -/

/-- The mark of doubleword `d` after a write of `n` bytes (R214, R286): poisoned data sets it, fresh data clears it if it covers
the doubleword. -/
def markAfter (pa n : Nat) (poisoned : Bool) (d : Nat) (old : Bool) : Bool :=
  if poisoned then true else old && !(decide (pa ≤ 8 * d) && decide (8 * d + 8 ≤ pa + n))

/-- The doublewords that `n` bytes touch. -/
def doublewords (pa n : Nat) : List Nat :=
  if n = 0 then [] else (List.range ((pa + n - 1) / 8 - pa / 8 + 1)).map (pa / 8 + ·)

def State.markWrite (s : State) (pa n : Nat) (poisoned : Bool) : State :=
  { s with poison := (doublewords pa n).foldl (fun m d => m.set false d (markAfter pa n poisoned d (m.get false d))) s.poison }

/-- The mark of doubleword `d`, whose bytes lie at doubleword `src` on the die, as an agent sees it. -/
def State.poisonFrom (s : State) (q : Place) (d src : Nat) : Bool :=
  s.pend.foldl (fun m p =>
    if p.visible q && p.overlaps (8 * d) 8 then markAfter p.address p.bytes.length p.poisoned d m else m) (s.poison.get false src)

/-- Where the physical space of Bryned peer `k` stands in the model's memory: above the scratchpads (R389). -/
def peerBase (k : Nat) : Nat := 2 ^ 53 + k * 2 ^ 52

/-- The place of a physical address of the package: an address in a Bryned window goes to the peer's physical address that firmware has
given the window (R389; notes/assumptions/92.md). -/
def State.routed (s : State) (pa : Nat) : Nat :=
  if 2 ^ 51 ≤ pa && pa < 2 ^ 52 then
    match s.routes.get none ((pa - 2 ^ 51) / 2 ^ 36) with
    | some (k, a) => peerBase k + (a + (pa - 2 ^ 51) % 2 ^ 36) % 2 ^ 52
    | none => pa
  else pa

/-- The peer package that holds a place. -/
def peerOf (pa : Nat) : Option Nat := if 2 ^ 53 ≤ pa then some ((pa - 2 ^ 53) / 2 ^ 52) else none

/-- The address lies behind a Bryned port that is down: its reads are poisoned, and its writes discarded (R388). Peer k is reached
through port k (notes/assumptions/48.md). -/
def State.unreachable (s : State) (pa : Nat) : Bool := (peerOf pa).elim false fun k => (s.ports.get {} k).down

/-- A doubleword of `n` bytes is poisoned. -/
def State.poisonIn (s : State) (q : Place) (pa src n : Nat) : Bool :=
  ((doublewords pa n).any fun d => s.poisonFrom q d (src / 8 + (d - pa / 8))) || s.unreachable pa

/-! Bytes that the device alone writes. -/

/-- The doubleword of an active bin set's descriptor that is the Sieve's (R314), and an active barrier (R201). -/
def State.deviceOwns (s : State) (pa : Nat) : Bool :=
  (s.sets.any fun b => b.pa + 0x20 ≤ pa && pa < b.pa + 0x28) || s.barriers.any fun b => b.pa ≤ pa && pa < b.pa + 32

/-- The bytes from an address on as runs without those that `lost` names. -/
def keptRuns (lost : Nat → Bool) : Nat → List Byte → List (Nat × List Byte)
  | _, [] => []
  | pa, b :: rest =>
    if lost pa then keptRuns lost (pa + 1) rest
    else
      match keptRuns lost (pa + 1) rest with
      | (a, l) :: more => if a = pa + 1 then (pa, b :: l) :: more else (pa, [b]) :: (a, l) :: more
      | [] => [(pa, [b])]

/-- The bytes of a store that reach memory, as runs: those that the device owns, or that no port can deliver, are discarded. -/
def State.unowned (s : State) (pa : Nat) (bytes : List Byte) : List (Nat × List Byte) :=
  let lost (a : Nat) : Bool := s.deviceOwns a || s.unreachable a
  if (List.range bytes.length).any fun k => lost (pa + k) then keptRuns lost pa bytes else [(pa, bytes)]

/-- Write bytes at their single place, seen by every agent at once. -/
def State.putBytes (s : State) (pa : Nat) (bytes : List Byte) (poisoned : Bool := false) (mask : Byte := 0xFF) : State :=
  (s.unowned pa bytes).foldl (fun s r =>
    (s.markWrite r.1 r.2.length poisoned).setMemBytes r.1 (r.2.zipIdx.map fun b => mergeByte mask b.1 (s.mem.get 0 (r.1 + b.2)))) s

/-! Stores that perform for every agent. -/

/-- Invalidate every replica of the page of `frames` 64 KiB frames that holds an address (R386). -/
def State.dropReplicas (s : State) (pa frames : Nat) : State :=
  let first := pa / 2 ^ 16 - pa / 2 ^ 16 % frames
  { s with replicas := (List.range 4).foldl (fun r die =>
      r.eraseRange (die * 2 ^ 40 + first) (die * 2 ^ 40 + first + frames)) s.replicas }

def State.performStore (s : State) (p : PendStore) : State :=
  (if p.held then s.dropReplicas p.address p.frames else s).putBytes p.address p.bytes p.poisoned p.mask

/-- A store comes after an older one that has not performed: it says so, or both write a byte and their order is fixed, by their
die or because another die has seen the older (R260, R262). -/
def PendStore.follows (p o : PendStore) : Bool :=
  p.after.contains o.id || (p.overlaps o.address o.bytes.length && (p.place.die == o.place.die || !o.seen.isEmpty))

/-- The stores that `f` picks and those that must come before them, oldest first; and the others. -/
def splitPending (f : PendStore → Bool) : List PendStore → List PendStore × List PendStore
  | [] => ([], [])
  | p :: rest =>
    let (now, later) := splitPending f rest
    if f p || now.any (·.follows p) then (p :: now, later) else (now, p :: later)

/-- The pending stores that `f` picks perform for every agent, in order. -/
def State.performPending (s : State) (f : PendStore → Bool) : State :=
  let (now, later) := splitPending f s.pend
  now.foldl State.performStore { s with pend := later }

/-- A release of a hart at `q` (R259, R262, R386): from package scope on, every store that the hart can have seen performs for every
agent. Its die's agents see a store at once, but for one that is held at the hart, which a release at a narrower scope performs. -/
def State.release (s : State) (q : Place) (scope : Nat) : State :=
  if scope = 0 then s else s.performPending fun p => p.visible q && (p.held || decide (4 ≤ scope))

/-- The release of VNARROW and VDROP: at package scope, exactly what the hart has done through one handle register (R338). -/
def State.releaseView (s : State) (q : Place) (n : Nat) : State := s.performPending fun p => p.place == q && p.view.map (·.1) == some n

def releaseOp (scope : Nat) : Op Unit := modify fun s => s.release s.hart.place scope

/-- The stores that an agent at `q` can have seen and that have not performed for every agent. -/
def State.seenStores (s : State) (q : Place) : List Nat := (s.pend.filter (·.visible q)).map (·.id)

/-- An acquire of the running hart: at package scope its later writes follow, for every die, the stores that it can have seen
(R261, R262). The accesses themselves run in program order. -/
def State.acquire (s : State) (scope : Nat) : State :=
  if scope < 4 then s else { s with hart := { s.hart with ordered := s.seenStores s.hart.place } }

def acquireOp (scope : Nat) : Op Unit := modify (·.acquire scope)

/-- The device takes over bytes: every pending store to them performs first (R201, R314). -/
def State.settleAll (s : State) (pa n : Nat) : State := s.performPending (·.overlaps pa n)

end Sys2Proof.Machine
end

