-- ==== Sys2Proof/Machine/Translate.lean ====
section
/-!
DEFINITION. The address space of a context, the hashed page table, its walk and the TLB copies (11:R208, R209, R219;
12:R223 to R237).
-/

namespace Sys2Proof.Machine

/-- Where the scratchpads stand in the model's memory: above every physical address (R210, R219). -/
def scratchBase : Nat := 2 ^ 52

/-- The model's address of a byte of a core's scratchpad. -/
def scratchAddr (p : Place) (off : Nat) : Nat := scratchBase + coreKey p.die p.core * 2 ^ 19 + off

/-- The physical address of a byte of a die's weight store (R219). -/
def weightAddr (die off : Nat) : Nat := 2 ^ 40 + die * 2 ^ 32 + off

/-- The part of the address space that holds an address (R208, R209). -/
inductive Region where
  | paged
  | scratch (off : Nat)
  | weights (die off : Nat)
  | unassigned
  deriving DecidableEq, Repr

def regionOf (die : Nat) (va : Word) : Region :=
  let a := va.toNat
  if a < 0x00FFFF0000000000 then .paged
  else if a < 0x00FFFF0100000000 then .weights die (a - 0x00FFFF0000000000)
  else if 0x00FFFF1000000000 ≤ a ∧ a < 0x00FFFF1400000000 then
    .weights ((a - 0x00FFFF1000000000) / 2 ^ 32) ((a - 0x00FFFF1000000000) % 2 ^ 32)
  else if 0x00FFFFFFFFF00000 ≤ a ∧ a < 0x00FFFFFFFFF50000 then .scratch (a - 0x00FFFFFFFFF00000)
  else .unassigned

/-! Page-table entries (R226). -/

/-- A frame that Dolevo memory, a weight store or host memory holds (R219, R226). A page over a weight store is plain memory to the accesses
that go through it (DESIGN CHOICE, notes/assumptions/119.md). -/
def frameAssigned (frame : Nat) : Bool :=
  frame < 0x800000 || (0x1000000 ≤ frame && frame < 0x1040000) || 0x800000000 ≤ frame

/-- What R226 rejects in entry `j` of a bucket, with the entry that follows it there. -/
def Entry.bad (e : Entry) (j : Nat) (following : Entry) : Bool :=
  e.size == 3 || e.vpn % 2 ^ sizeShift e.size != 0 || e.frame % 2 ^ sizeShift e.size != 0 || !frameAssigned e.frame ||
  bitsAt e.toNat 3 25 != 0 || e.kind != 0 || (e.global && e.asid != 0) ||
  (e.migrating && (j == 7 || !following.companion))

/-- Physical addresses have 52 bits (R3). -/
def physicalSize : Nat := 2 ^ 52

/-- The address of entry `j` of a bucket (R224), within the physical space (R3). -/
def State.entryAddr (s : State) (bucket j : Nat) : Nat := (s.ptbase + 128 * bucket + 16 * j) % physicalSize

/-- An entry of the page table stands at the address. -/
def State.holdsEntry (s : State) (pa : Nat) : Bool :=
  let off := (pa + physicalSize - s.ptbase % physicalSize) % physicalSize
  pa < physicalSize && off < 128 * 2 ^ s.ptlog2 && off % 16 == 0

def State.entryAt (s : State) (bucket j : Nat) : Entry := BitVec.ofNat 128 (s.memNat (s.entryAddr bucket j) 16)

/-- The first bucket of a key (R227). -/
def State.firstBucket (s : State) (size : Nat) (asid : Asid) (vpn : Nat) : Nat :=
  let v := vpn - vpn % 2 ^ sizeShift size
  let k := size * 2 ^ 52 + asid.toNat * 2 ^ 40 + v
  k * 0xC3A59E61D24B7F0D % 2 ^ 64 / 2 ^ (64 - s.ptlog2)

/-- How one of the three sequences of a walk ends. -/
inductive Found where
  | entry (bucket j : Nat)
  | none
  | poisoned
  deriving DecidableEq, Repr

/-- An entry as the walker of a die reads it, under die coherence (R228). -/
def State.entryFor (s : State) (die bucket j : Nat) : Entry := BitVec.ofNat 128 (s.readNat (dieUnit die) (s.entryAddr bucket j) 16)

/-- The walker of a die meets poison in a bucket (R228). -/
def State.bucketPoisoned (s : State) (die bucket : Nat) : Bool :=
  (List.range 16).any fun k => s.poisonFrom (dieUnit die) (s.entryAddr bucket 0 / 8 + k) (s.entryAddr bucket 0 / 8 + k)

/-- One sequence of a die's walk: at most `fuel` buckets from `b` on (R227). -/
def State.walkFrom (s : State) (die size : Nat) (asid : Asid) (vpn : Nat) : Nat → Nat → Found
  | 0, _ => .none
  | fuel + 1, b =>
    if s.bucketPoisoned die b then .poisoned
    else
      match (List.range 8).find? fun j => (s.entryFor die b j).matches size asid vpn with
      | some j => .entry b j
      | Option.none =>
        if (List.range 8).any fun j => (s.entryFor die b j).free then .none
        else s.walkFrom die size asid vpn fuel ((b + 1) % 2 ^ s.ptlog2)

/-- A translation. -/
structure Xlat where
  entry : Entry
  /-- Address of the entry in memory. -/
  at_ : Nat
  pa : Nat
  /-- It comes from a walk, which sets A and D and fills the TLBs (R229, R231). -/
  fresh : Bool
  deriving DecidableEq, Repr

/-- The answer of a translation. -/
inductive Lookup where
  | hit (x : Xlat)
  | absent (bad : Bool)
  | poisoned
  deriving DecidableEq, Repr

/-- The address within the page frame, and for a migrating page the frame that holds the line (R235). -/
def physical (e companion : Entry) (va : Word) : Nat :=
  let off := va.toNat % 2 ^ (16 + sizeShift e.size)
  let frame := if e.migrating && off / 128 < bitsAt companion.toNat 71 21 then bitsAt companion.toNat 92 36 else e.frame
  frame * 2 ^ 16 + off

/-- The translation that entry `j` of a bucket gives on a die (R226, R235). -/
def State.entryLookup (s : State) (die b j : Nat) (va : Word) : Lookup :=
  let e := s.entryFor die b j
  let next := s.entryFor die b (j + 1)
  if e.bad j next then .absent true
  else .hit { entry := e, at_ := s.entryAddr b j, pa := s.routed (physical e next va), fresh := true }

/-- A fresh walk of a die's walker (R227, R228). -/
def State.walk (s : State) (die : Nat) (asid : Asid) (va : Word) : Lookup :=
  let vpn := bitsAt va.toNat 16 40
  let found := (List.range 3).map fun size => s.walkFrom die size asid vpn 8 (s.firstBucket size asid vpn)
  if found.any (· == .poisoned) then .poisoned
  else
    match found.filterMap fun f => match f with | .entry b j => some (b, j) | _ => none with
    | [] => .absent false
    | (b, j) :: _ => s.entryLookup die b j va

/-- An access as translation and the region checks see it. -/
structure Req where
  place : Place
  asid : Asid
  /-- It writes, or is an atomic: W is needed (R225). -/
  write : Bool := false
  atomic : Bool := false
  exec : Bool := false
  /-- It goes through a handle (R221, R239). -/
  covered : Bool := false
  /-- No TLB copy serves it (R240). -/
  walks : Bool := false
  /-- The region classes that may serve it, where its rule names them (R294, R319, R410). -/
  only : List Nat := []
  /-- The handle register that it goes through, and its view (R338). -/
  view : Option (Nat × Handle) := none
  /-- Stores that its writes follow for every die (R262). -/
  after : List Nat := []
  deriving DecidableEq, Repr

/-- The entry lets the access through (R225, R221). -/
def Entry.permits (e : Entry) (q : Req) : Bool :=
  (if q.exec then e.executable else if q.write then e.writable else e.readable) && (e.cls != 1 || q.covered) &&
  (q.only.isEmpty || q.only.contains e.cls)

/-- A TLB copy that the access may use: its core's first level, or its die's second level (R231). -/
def State.tlbHit (s : State) (q : Req) (va : Word) : Option Xlat :=
  let hit (c : TlbCopy) := c.die == q.place.die && (c.core == none || c.core == some q.place.core) &&
    Entry.matches c.entry (Entry.size c.entry) q.asid (bitsAt va.toNat 16 40) && Entry.permits c.entry q &&
    (!q.write || Entry.dirty c.entry)
  (s.tlb.find? hit).map fun c => { entry := c.entry, at_ := 0, pa := s.routed (physical c.entry 0 va), fresh := false }

/-- Where the entry of a key stands for a die, whatever is poisoned: at most `fuel` buckets from `b` on. -/
def State.findEntry (s : State) (die size : Nat) (asid : Asid) (vpn : Nat) : Nat → Nat → Option (Nat × Nat)
  | 0, _ => none
  | fuel + 1, b =>
    match (List.range 8).find? fun j => (s.entryFor die b j).matches size asid vpn with
    | some j => some (b, j)
    | none =>
      if (List.range 8).any fun j => (s.entryFor die b j).free then none
      else s.findEntry die size asid vpn fuel ((b + 1) % 2 ^ s.ptlog2)

/-- The page of a TLB copy migrates now: the table's entry for it, with its companion read afresh, which poison can meet (R228, R231,
R235). -/
def State.migrating? (s : State) (q : Req) (x : Xlat) (va : Word) : Option Lookup :=
  let size := Entry.size x.entry
  let vpn := bitsAt va.toNat 16 40
  (s.findEntry q.place.die size q.asid vpn 8 (s.firstBucket size q.asid vpn)).bind fun p =>
    if !(Entry.migrating (s.entryFor q.place.die p.1 p.2)) then none
    else if s.bucketPoisoned q.place.die p.1 then some .poisoned
    else some (s.entryLookup q.place.die p.1 p.2 va)

/-- Translation of a paged address: a copy that permits the access, unless its page migrates, else a fresh walk (R229, R230,
R235). -/
def State.translate (s : State) (q : Req) (va : Word) : Lookup :=
  match if q.walks then none else s.tlbHit q va with
  | some x => (s.migrating? q x va).getD (.hit x)
  | none => s.walk q.place.die q.asid va

/-- The frame that a die reads for a read-duplicated page (R386). -/
def State.replicaAddr (s : State) (die pa : Nat) : Nat :=
  let r := s.replicas.get 0 (die * 2 ^ 40 + pa / 2 ^ 16)
  if r = 0 then pa else (r - 1) % 2 ^ 36 * 2 ^ 16 + pa % 2 ^ 16

/-- A performed walk sets A, and D for a write, by a conditional OR at the home slice while V is set, and leaves copies in both TLB
levels (R229, R231, R235). -/
def State.touchEntry (s : State) (q : Req) (x : Xlat) : State :=
  if !x.fresh || !(s.byteAt (dieUnit q.place.die) x.at_).getLsbD 0 then s
  else
    let e : Entry := x.entry ||| 0x80000000#128 ||| (if q.write then 0x40000000#128 else 0#128)
    let s := s.orBits q.place.die (x.at_ + 3) (if q.write then 0xC0 else 0x80)
    if Entry.migrating e then s
    else
      let keep (c : TlbCopy) := !(c.die == q.place.die && (c.core == none || c.core == some q.place.core) &&
        Entry.asid c.entry == Entry.asid e && Entry.vpn c.entry == Entry.vpn e && Entry.size c.entry == Entry.size e)
      { s with tlb :=
          { die := q.place.die, core := some q.place.core, entry := e } ::
          { die := q.place.die, core := none, entry := e } :: s.tlb.filter keep }

/-- Two frames lie on one read-duplicated page of the page table. A valid entry's first byte is not zero, so memory lists it. -/
def State.duplicatedWith (s : State) (a b : Nat) : Bool :=
  s.mem.any fun c =>
    s.holdsEntry c.1 &&
    let e : Entry := BitVec.ofNat 128 (s.memNat c.1 16)
    let within (f : Nat) : Bool := decide (e.frame ≤ f) && decide (f < e.frame + 2 ^ sizeShift e.size)
    Entry.valid e && Entry.duplicated e && within a && within b

/-- A write from outside the dies, or by the device, to a read-duplicated page invalidates the page's replicas (R386). -/
def State.dropReplicasAt (s : State) (pa : Nat) : State :=
  { s with replicas := s.replicas.filter fun r => !(s.duplicatedWith (r.1 % 2 ^ 40) (pa / 2 ^ 16)) }

/-- TLBINV over the copies of a scope: 0 the core, 1 the die, 2 the package (R237). -/
def State.invalidateTlb (s : State) (place : Place) (scope kind : Nat) (va : Word) (asid : Asid) : State :=
  let within (c : TlbCopy) :=
    if scope = 0 then c.die == place.die && c.core == some place.core
    else if scope = 1 then c.die == place.die
    else true
  let named (c : TlbCopy) :=
    if kind = 0 then true
    else if kind = 1 then Entry.asid c.entry == asid.toNat && !Entry.global c.entry
    else Entry.matches c.entry (Entry.size c.entry) asid (bitsAt va.toNat 16 40)
  { s with tlb := s.tlb.filter fun c => !(within c && named c) }

end Sys2Proof.Machine
end

