-- ==== Sys2Proof/Machine/Memory.lean ====
section
/-!
DEFINITION. Accesses to memory: stores not yet seen by the other dies, poison, the checks of windows and pages, handles,
page-fault records, releases (04:R76; 07:R147, R148; 11:R210 to R216, R221; 14:R259; 19:R327; 21:R362 to R364; 23:R385, R386).
-/

namespace Sys2Proof.Machine

/-- Before a write that every agent sees at once, the stores to its bytes that its agent sees perform, and those that it follows
(R249, R260, R262). -/
def State.settle (s : State) (q : Req) (pa n : Nat) : State :=
  s.performPending fun p => (p.visible q.place && p.overlaps pa n) || q.after.contains p.id

/-! The scratchpad's owner tags (R211). -/

def blockKey (p : Place) (off : Nat) : Nat := coreKey p.die p.core * 80 + off / 4096

/-- The contents of a block, by the block and its count where they began (R377). -/
def Tag.contents (t : Tag) (key : Nat) : Nat × Nat := t.moved.getD (key, t.passed)

/-- A task of the context is live on the core. -/
def State.liveOn (s : State) (p : Place) (asid : Asid) : Bool :=
  s.harts.any fun h => h.run == .running && h.place.die == p.die && h.place.core == p.core && h.asid == asid

def State.scratchRefused (s : State) (q : Req) (off : Nat) : Bool :=
  match (s.tags.get {} (blockKey q.place off)).owner with
  | some owner => owner != q.asid && s.liveOn q.place owner
  | none => false

/-- Claim a block: unless the same context owned it last, its 4,096 bytes are zeroed. -/
def State.claim (s : State) (q : Req) (off : Nat) : State :=
  let key := blockKey q.place off
  let tag := s.tags.get {} key
  if tag.owner = some q.asid then s
  else
    let lo := scratchAddr q.place (off - off % 4096)
    { s with
      tags := s.tags.set {} key { owner := some q.asid, passed := tag.passed + 1 }
      mem := s.mem.eraseRange lo (lo + 4096)
      poison := s.poison.eraseRange (lo / 8) (lo / 8 + 512) }

/-! Locating an address. -/

/-- The place that an address names. -/
inductive Target where
  | scratch (off pa : Nat)
  | weights (pa : Nat)
  | page (x : Xlat)
  deriving DecidableEq, Repr

inductive Located where
  | at_ (t : Target)
  /-- A page that is not resident, by a bad entry or by none (R226). -/
  | absent (bad : Bool)
  deriving DecidableEq, Repr

/-- Step 4 of R76: the windows, else translation; the permission and the region class. -/
def State.locate (s : State) (q : Req) (va : Word) : Except Trap Located :=
  let refuse (c : Cause) : Except Trap Located := .error { cause := c, addr := va }
  if 2 ^ 56 ≤ va.toNat then refuse .protection
  else
    match regionOf q.place.die va with
    | .unassigned => refuse .protection
    | .scratch off =>
      if q.exec || s.scratchRefused q off then refuse .protection
      else .ok (.at_ (.scratch off (scratchAddr q.place off)))
    | .weights die off =>
      if q.exec then refuse .protection
      else if q.write then refuse .weightStoreWrite
      else
        match (s.die die).storeOwner with
        | some owner => if owner = q.asid then .ok (.at_ (.weights (weightAddr die off))) else refuse .protection
        | none => .ok (.at_ (.weights (weightAddr die off)))
    | .paged =>
      match s.translate q va with
      | .hit x => if x.entry.permits q then .ok (.at_ (.page x)) else refuse .protection
      | .absent bad => .ok (.absent bad)
      | .poisoned => refuse .poisonedData

/-- An atomic needs R as well as W (R246). -/
def State.locateFor (s : State) (q : Req) (va : Word) : Except Trap Located :=
  if q.atomic then
    match s.locate q va with
    | .ok l =>
      match s.locate { q with write := false, atomic := false } va with
      | .ok _ => .ok l
      | .error t => .error t
    | .error t => .error t
  else s.locate q va

/-- Where a die reads the bytes of a target: a page's replica if the die has one (R386). -/
def State.readAddr (s : State) (q : Req) (t : Target) : Nat :=
  match t with
  | .scratch _ pa => pa
  | .weights pa => pa
  | .page x => if x.entry.duplicated then s.replicaAddr q.place.die x.pa else x.pa

/-- The address that a write performs at. -/
def Target.pa : Target → Nat
  | .scratch _ pa => pa
  | .weights pa => pa
  | .page x => x.pa

/-- The 64 KiB frames of a read-duplicated page; none for another place. -/
def Target.replicated : Target → Option Nat
  | .page x => if x.entry.duplicated then some (2 ^ sizeShift (Entry.size x.entry)) else none
  | _ => none

/-- What an access leaves on its way: a claimed block, or A, D and the TLB copies. -/
def State.touch (s : State) (q : Req) (t : Target) : State :=
  match t with
  | .scratch off _ => s.claim q off
  | .weights _ => s
  | .page x => s.touchEntry q x

/-! Reading and writing at a target. -/

/-- The bytes of a target as an agent sees them. -/
def State.readAt (s : State) (q : Req) (t : Target) (n : Nat) : Nat := s.readFrom q.place t.pa (s.readAddr q t) n

def State.poisonAt (s : State) (q : Req) (t : Target) (n : Nat) : Bool := s.poisonIn q.place t.pa (s.readAddr q t) n

/-- The line of 64 bytes that holds a target as an agent at a place of the request's die sees it, poisoned behind a port that is down (R388). -/
def State.lineFor (s : State) (agent : Place) (q : Req) (t : Target) : CachedLine :=
  let pa := t.pa - t.pa % 64
  let src := s.readAddr q t - t.pa % 64
  { die := q.place.die, core := q.place.core, address := src, bits := s.readFrom agent pa src 64
    poison := (List.range 8).filter fun k => s.poisonFrom agent (pa / 8 + k) (src / 8 + k) || s.unreachable pa }

/-- The line as the core's caches hold it: what the die's agents see, without what a hart still holds (R241, R386). -/
def State.snapshot (s : State) (q : Req) (t : Target) : CachedLine := s.lineFor (dieUnit q.place.die) q t

def CachedLine.holds (l : CachedLine) (q : Place) (pa : Nat) : Bool :=
  l.die == q.die && l.core == q.core && l.address == pa - pa % 64

/-- The core's copy of a target's line on the read-only path, if it holds one (R213, R241). -/
def State.readOnlyLine (s : State) (q : Req) (t : Target) : Option CachedLine := s.readOnly.find? (·.holds q.place (s.readAddr q t))

/-- The read-only path reads a target through the core's copies of lines; a scratchpad has none. -/
def Target.cached : Target → Bool
  | .scratch .. => false
  | _ => true

/-- Stores to a target's line that are held at a hart of the core and are older than that hart's floor: no copy without them stays there
(R241, R386). -/
def State.flooredStores (s : State) (q : Req) (t : Target) : List PendStore :=
  s.pend.filter fun p => p.floored && p.place.die == q.place.die && p.place.core == q.place.core && p.overlaps (t.pa - t.pa % 64) 64

/-- The hart's own stores to a target's line before its floor are not all on the way to other agents: a read-only load must see them. -/
def State.seesOwn (s : State) (q : Req) (t : Target) : Bool := (s.flooredStores q t).any (·.place == q.place)

/-- The line that serves a read on the read-only path: the core's copy if it holds one, else the line as it stands now, for the hart that
holds older stores than its floor with those (R241). -/
def State.readOnlySource (s : State) (q : Req) (t : Target) : CachedLine :=
  if s.seesOwn q t then s.lineFor q.place q t else (s.readOnlyLine q t).getD (s.snapshot q t)

/-- The bytes of a target on the read-only path. -/
def State.readOnlyNat (s : State) (q : Req) (t : Target) (n : Nat) : Nat :=
  (s.readOnlySource q t).bits / 2 ^ (8 * (s.readAddr q t % 64)) % 2 ^ (8 * n)

/-- A load of a target's bytes meets poison; on the read-only path, that of the line which serves it. -/
def State.poisonedRead (s : State) (q : Req) (t : Target) (n : Nat) (ro : Bool) : Bool :=
  if ro && t.cached then (doublewords (s.readAddr q t % 64) n).any fun k => (s.readOnlySource q t).poison.contains k
  else s.poisonAt q t n

/-- The line is used: it is marked so, or added. -/
def keepUsed (q : Place) (l : CachedLine) (lines : List CachedLine) : List CachedLine :=
  if lines.any (·.holds q l.address) then lines.map fun c => if c.holds q l.address then { c with used := true } else c
  else { l with used := true } :: lines

/-- The core keeps the line, if no hart of it must see a store that the line lacks. -/
def State.keepReadOnly (s : State) (q : Req) (t : Target) : State :=
  if (s.flooredStores q t).isEmpty then { s with readOnly := keepUsed q.place (s.snapshot q t) s.readOnly } else s

/-- Read `n` bytes at a target that the access has touched; on the read-only path a copy of a line of ordinary memory is kept. -/
def readTarget (q : Req) (t : Target) (n : Nat) (ro : Bool) : Op Nat := do
  let s ← get
  if ro && t.cached then
    let v := s.readOnlyNat q t n
    set (s.keepReadOnly q t)
    pure v
  else pure (s.readAt q t n)

/-- A store joins the stores that have performed for their die only. -/
def State.addPending (s : State) (p : PendStore) : State :=
  { s with pend := s.pend ++ [{ p with id := s.storeSeq }], storeSeq := s.storeSeq + 1 }

/-- Write bytes at a target. A scratchpad has one place for all its agents (R210). A write to a read-duplicated page is held
until the replicas are invalidated (R386). -/
def State.writeTarget (s : State) (q : Req) (t : Target) (bytes : List Byte) (poisoned : Bool := false) (mask : Byte := 0xFF) : State :=
  let s := s.touch q t
  match t with
  | .page x => (s.unowned x.pa bytes).foldl (fun s r => s.addPending {
      id := 0, place := q.place, held := t.replicated.isSome, address := r.1, bytes := r.2, mask, poisoned
      frames := t.replicated.getD 1, after := q.after, view := q.view, asid := q.asid }) s
  | t => s.putBytes t.pa bytes poisoned mask

def writeTarget (q : Req) (t : Target) (bytes : List Byte) (poisoned : Bool := false) (mask : Byte := 0xFF) : Op Unit :=
  modify fun s => s.writeTarget q t bytes poisoned mask

/-- The place of a target before a write that every agent sees at once (R249). A write to a read-duplicated page invalidates the
replicas first (R386). -/
def State.atHome (s : State) (q : Req) (t : Target) (n : Nat) : State :=
  let s := (s.touch q t).settle q t.pa n
  t.replicated.elim s (s.dropReplicas t.pa)

/-- The device writes bytes of an object that it serves, as their home slice (R201): no replica of their page stays where it is
read-duplicated (R386). -/
def State.putObject (s : State) (pa : Nat) (bytes : List Byte) : State :=
  ((s.dropReplicasAt pa).markWrite pa bytes.length false).setMemBytes pa bytes

/-- A write at a home slice, to every agent at once. -/
def State.putHome (s : State) (q : Req) (t : Target) (bytes : List Byte) : State :=
  (s.atHome q t bytes.length).putBytes t.pa bytes

/-! Page-fault records (R362 to R364). -/

/-- One element that met a page that is not resident. -/
structure Missing where
  va : Word
  bad : Bool
  deriving DecidableEq, Repr

/-- The requester fields of a record (R363). -/
structure Requester where
  src : Nat
  epc : Word
  die : Nat
  core : Nat
  slot : Nat
  taskid : Nat
  node : Nat
  rseq : Nat := 0
  deriving DecidableEq, Repr

def Hart.requester (h : Hart) (src : Nat) : Requester :=
  { src, epc := h.pc, die := h.place.die, core := h.place.core, slot := h.place.slot,
    taskid := h.csr.taskid.toNat, node := h.csr.nodeid.toNat }

/-- A fault record as its 64 bytes (R363). -/
def faultRecord (r : Requester) (q : Req) (va : Word) (bad : Bool) (elems : Nat) (cycle : Word) (seq : BitVec 32) :
    FaultRecord :=
  BitVec.ofNat 512 (va.toNat +
    2 ^ 64 * (q.asid.toNat * 2 ^ 40 + (if bad then 1 else 0) * 2 ^ 32 + r.src % 256 * 2 ^ 24 +
      (if q.write then 1 else 0) * 2 ^ 16 + (if q.atomic then 1 else 0) * 2 ^ 17 + (if q.covered then 1 else 0) * 2 ^ 18 +
      min elems 65535) +
    2 ^ 128 * r.epc.toNat +
    2 ^ 192 * (r.die % 4 * 2 ^ 48 + r.core % 256 * 2 ^ 40 + r.slot % 4 * 2 ^ 32 + r.taskid % 2 ^ 24) +
    2 ^ 256 * (r.node % 2 ^ 32 * 2 ^ 32 + r.rseq % 2 ^ 32) +
    2 ^ 320 * cycle.toNat + 2 ^ 384 * seq.toNat + 2 ^ 448)

/-- Append one record to a die's queue (R362). The walk that found the page missing has dropped the TLB copies of it (R230). -/
def State.pushRecord (s : State) (die : Nat) (r : Requester) (q : Req) (va : Word) (bad : Bool) (elems : Nat) : State :=
  let d := s.die die
  ((s.raiseEvent die none).dropCopies q.place q.asid va).setDie die { d with
    faults := d.faults ++ [faultRecord r q va bad elems s.cycle d.faultSeq]
    faultSeq := d.faultSeq + 1 }

/-- Entries that a latent log holds at most (R407). -/
def latentCapacity : Nat := 64

/-- A latent event: counted, saturating, and logged while the log has room (R369, R407). -/
def State.logLatent (s : State) (kind paddr : Nat) (asid : Asid) (p : Place) : State :=
  let d := s.die p.die
  let entry : BitVec 512 := BitVec.ofNat 512 (paddr % 2 ^ 64 + 2 ^ 64 * (asid.toNat * 2 ^ 52 + kind % 256) +
    2 ^ 128 * s.cycle.toNat + 2 ^ 192 * (p.core % 256 * 2 ^ 40 + p.slot % 4 * 2 ^ 32))
  s.setDie p.die { d with
    latent := satIncr d.latent
    latentLog := if d.latentLog.length < latentCapacity then d.latentLog ++ [entry] else d.latentLog }

/-- The kind of latent event that discarding a line is, if it has only been fetched ahead: poison, or for a fetched line an error
of its line word or of a slot's parity (R27, R32, R369). -/
def CachedLine.latent (l : CachedLine) (exec : Bool) : Option Nat :=
  let w := l.bits / 2 ^ 480 % 2 ^ 32
  let sparFails (k : Nat) : Bool := (popCount 96 (l.bits / 2 ^ (96 * k)) + (if w.testBit (9 + k) then 1 else 0)) % 2 != 0
  if l.used then none
  else if !l.poison.isEmpty then some 2
  else if exec && (popCount 15 w % 2 != 0 || decide (2 ^ 15 ≤ w) || (List.range 5).any sparFails) then some 1
  else none

def State.logDiscard (s : State) (exec : Bool) (l : CachedLine) : State :=
  match l.latent exec with
  | some kind => s.logLatent kind l.address 0 { die := l.die, core := l.core }
  | none => s

/-- Discard the fetched lines that `f` names. -/
def State.discardFetched (s : State) (f : CachedLine → Bool) : State :=
  (s.fetched.filter f).foldl (fun s l => s.logDiscard true l) { s with fetched := s.fetched.filter fun l => !f l }

/-- Discard the lines of the read-only path that `f` names. -/
def State.discardReadOnly (s : State) (f : CachedLine → Bool) : State :=
  (s.readOnly.filter f).foldl (fun s l => s.logDiscard false l) { s with readOnly := s.readOnly.filter fun l => !f l }

/-- Records that a die's queue holds at most (R362). -/
def faultCapacity : Nat := 1024

/-- The distinct pages that the missing elements meet, in rising order (R364): lowest address, bad entry, elements. A page
that is not resident is counted by 64 KiB. -/
def missingPages (l : List Missing) : List (Word × Bool × Nat) :=
  let pages := sortDistinct (l.map fun m => m.va.toNat / 2 ^ 16)
  pages.map fun p =>
    let here := l.filter fun m => m.va.toNat / 2 ^ 16 == p
    ((here.map (·.va)).foldl (fun a b => if b.toNat < a.toNat then b else a) (here.head?.elim 0 (·.va)),
      here.any (·.bad), here.length)

/-- The queue of a die takes `n` records now (R362, R364). -/
def State.queueTakes (s : State) (die n : Nat) : Bool :=
  (s.die die).writer.isNone && decide ((s.die die).faults.length + n ≤ faultCapacity)

/-- A page fault of `n` pages must wait before anything of its access has an effect: another hart is writing its records, or the
records fit an emptier queue. -/
def State.mustWait (s : State) (die n : Nat) : Bool := !(s.queueTakes die n) && ((s.die die).writer.isSome || decide (n ≤ faultCapacity))

def State.pushPages (s : State) (die : Nat) (r : Requester) (q : Req) (pages : List (Word × Bool × Nat)) : State :=
  pages.foldl (fun s p => s.pushRecord die r q p.1 p.2.1 p.2.2) s

/-- Raise a page fault for the missing elements: the records first; a full queue makes the hart wait (R362, R364). An access that
meets more pages than the queue has records writes what finds room, and the rest as firmware consumes them. `whole` is that of the trap. -/
def pageFault {α : Type} (q : Req) (src : Nat) (l : List Missing) (whole : Bool := false) : Op α := do
  let s ← get
  let pages := missingPages l
  let die := s.hart.place.die
  if s.mustWait die pages.length then wait
  else
    let room := faultCapacity - (s.die die).faults.length
    let addr := pages.head?.elim 0 (·.1)
    let info := word ((s.die die).faultSeq.toNat * 2 ^ 32 + pages.length % 2 ^ 16)
    set (s.pushPages die (s.hart.requester src) q (pages.take room))
    if pages.length ≤ room then throw (.trap { cause := .pageFault, addr, info, whole })
    else do
      modHart fun h => { h with faulting := some {
        src, write := q.write, atomic := q.atomic, covered := q.covered, pages := pages.drop room, addr, info, whole } }
      modify fun s => s.setDie die { s.die die with writer := some s.hart.place }
      wait

/-- The running hart writes the records that are left of its page fault, as many as fit, and then takes the trap. -/
def State.writeRecords (s : State) (f : FaultWrite) : State :=
  let h := s.hart
  let die := h.place.die
  let q : Req := { place := h.place, asid := h.accessAsid, write := f.write, atomic := f.atomic, covered := f.covered }
  let room := faultCapacity - (s.die die).faults.length
  let s := s.pushPages die (h.requester f.src) q (f.pages.take room)
  if f.pages.length ≤ room then
    let s := s.setDie die { s.die die with writer := none }
    { s with hart := { s.hart with faulting := none } }.takeTrap
      { cause := .pageFault, addr := f.addr, info := f.info, whole := f.whole }
  else { s with hart := { s.hart with faulting := some { f with pages := f.pages.drop room } } }

/-! Handles (R326, R327). -/

def Handle.hi (h : Handle) : Nat := bitsAt h.toNat 88 40
def Handle.lo (h : Handle) : Nat := bitsAt h.toNat 48 40
def Handle.region (h : Handle) : Nat := bitsAt h.toNat 24 24
def Handle.writable (h : Handle) : Bool := h.getLsbD 1
def Handle.live (h : Handle) : Bool := h.getLsbD 0

def mkHandle (lo hi region : Nat) (w : Bool) : Handle :=
  BitVec.ofNat 128 (hi % 2 ^ 40 * 2 ^ 88 + lo % 2 ^ 40 * 2 ^ 48 + region % 2 ^ 24 * 2 ^ 24 + (if w then 2 else 0) + 1)

/-- The arena of a context (R324). -/
def State.arena (s : State) (asid : Asid) : Option Arena := s.arenas.find? (·.asid == asid)

def State.arenaBase (s : State) (asid : Asid) : Word := (s.arena asid).elim 0 (·.base)

/-- The address of a byte of a view (R327). -/
def State.viewAddr (s : State) (asid : Asid) (h : Handle) (o : Int) : Word :=
  s.arenaBase asid + BitVec.ofInt 64 ((Handle.region h : Int) * 65536 + Handle.lo h + o)

/-- `n` bytes from offset `o` on lie in the view (R327). -/
def Handle.inside (h : Handle) (o : Int) (n : Nat) : Bool :=
  Handle.live h && decide (0 ≤ o) && decide ((Handle.lo h : Int) + o + n ≤ Handle.hi h)

/-- Where an access starts from: a base scalar's value, or a handle register's number and contents. -/
inductive Base where
  | plain (a : Word)
  | view (n : Nat) (h : Handle)
  deriving DecidableEq, Repr

/-- The handle register that an access goes through, and its view. -/
def Base.handle : Base → Option (Nat × Handle)
  | .plain _ => none
  | .view n h => some (n, h)

def Base.covered : Base → Bool
  | .plain _ => false
  | .view _ _ => true

/-- The base of a format-M access (R239). -/
def State.baseOf (s : State) (h : BitVec 1) (a : Reg) : Base :=
  if h = 1 then .view a.toNat (s.hart.getH a.toNat) else .plain (s.x a)

/-- The address at an offset from a base (R76, R146, R327). -/
def State.addrAt (s : State) (asid : Asid) (b : Base) (o : Int) : Word :=
  match b with
  | .plain a => a + BitVec.ofInt 64 o
  | .view _ h => s.viewAddr asid h o

/-- The view's bound and its permission (R327): the cause that fails, with the handle's number. -/
def Base.refuses (b : Base) (o : Int) (n : Nat) : Bool :=
  match b with
  | .plain _ => false
  | .view _ h => !Handle.inside h o n

def Base.readOnly : Base → Bool
  | .plain _ => false
  | .view _ h => !Handle.writable h

def Base.number : Base → Word
  | .plain _ => 0
  | .view n _ => word n

/-- The request of the running hart. -/
def Hart.req (h : Hart) (write : Bool := false) (atomic : Bool := false) (covered : Bool := false) (view : Option (Nat × Handle) := none) :
    Req :=
  { place := h.place, asid := h.accessAsid, write, atomic, covered, after := h.ordered, view }

/-- The checks of R76 on one access of `n` bytes at an offset from a base, in their order. `cause` names the alignment
fault. -/
def State.checkAccess (s : State) (q : Req) (b : Base) (o : Int) (n : Nat) (cause : Cause := .misalignedAccess) :
    Except Trap (Word × Located) := do
  let ea := s.addrAt q.asid b o
  if 2 ^ 56 ≤ ea.toNat then .error { cause := .protection, addr := ea }
  else if ea.toNat % n ≠ 0 then .error { cause, addr := ea }
  else if b.refuses o n then .error { cause := .viewBound, addr := ea, info := b.number }
  else if q.write && b.readOnly then .error { cause := .sharedWrite, addr := ea, info := b.number }
  else return (ea, ← s.locate q ea)

/-- A checked access to bytes that are present; a missing page is a page fault with PART 0 (R76). -/
def present (q : Req) (r : Except Trap (Word × Located)) : Op (Word × Target) := do
  match ← check r with
  | (ea, .at_ t) => pure (ea, t)
  | (ea, .absent bad) => pageFault q 0 [{ va := ea, bad }] true

/-- An engine command of the hart is not complete. -/
def State.commandPending (s : State) (q : Place) : Bool := s.cmds.any fun c => c.place == q

/-! The range checker on the local scratchpad (R171, R289). -/

def Claim.conflicts (c : Claim) (off n : Nat) (write : Bool) : Bool :=
  (c.write || write) && decide (off < c.hi) && decide (c.lo < off + n)

/-- A pushed command of the hart at `q` holds these bytes. -/
def State.claimed (s : State) (q : Place) (t : Target) (n : Nat) (write : Bool) : Bool :=
  match t with
  | .scratch off _ => s.cmds.any fun c => c.place == q && c.claims.any (·.conflicts off n write)
  | _ => false

/-- An instruction of the hart waits until its older commands have finished with the bytes that it accesses. -/
def holdFor (q : Req) (ts : List Target) (n : Nat) : Op Unit := do
  let s ← get
  if ts.any fun t => s.claimed q.place t n q.write then wait else pure ()

/-- A load of `n` bytes by the running hart, with every check of R76. -/
def loadAt (b : Base) (o : Int) (n : Nat) (ro : Bool := false) : Op Nat := do
  let s ← get
  let q := s.hart.req (covered := b.covered)
  let (ea, t) ← present q (s.checkAccess q b o n)
  holdFor q [t] n
  modify fun s => s.touch q t
  trapIf ((← get).poisonedRead q t n ro) .poisonedData ea
  readTarget q t n ro

/-- A store of `n` bytes by the running hart, with every check of R76. It performs as one, also where only its 8-byte parts are single-copy
atomic (R175; DESIGN CHOICE, notes/assumptions/105.md). -/
def storeAt (b : Base) (o : Int) (n : Nat) (v : Nat) : Op Unit := do
  let s ← get
  let q := s.hart.req (write := true) (covered := b.covered) (view := b.handle)
  let (_, t) ← present q (s.checkAccess q b o n)
  holdFor q [t] n
  writeTarget q t (toBytes n v)

end Sys2Proof.Machine
end

