-- ==== Sys2Proof/Machine/Access.lean ====
section
/-!
DEFINITION. Scalar loads and stores, OPC 0x30 (04:R75 to R77; 13:R239, R241).
-/

namespace Sys2Proof.Machine

/-- The base register is read by the access unit (R77). -/
def baseReads (h : BitVec 1) (a : Reg) : List Reg := if h = 1 then [] else [a]

/-- An acquire at the scope that the instruction names, if ORD asks for one (R77, R149). -/
def acquireIf (ord : BitVec 2) (scope : BitVec 3) : Op Unit := if ord.getLsbD 0 then acquireOp scope.toNat else pure ()

/-- A scalar load of `n` bytes; `f` extends the value. A load to x0 performs the access and drops the value (R76). -/
def scalarLoad (i : Instr) (o : MOp) (n : Nat) (f : Nat → Word) (s : State) : Host.Outcome State Fault Refusal :=
  finishNext i (do
    auReads (baseReads o.h o.a)
    let b := (← get).baseOf o.h o.a
    let v ← loadAt b o.ofs.toInt n (o.ro == 1)
    acquireIf o.ord o.scope
    setX o.d (f v)) s

def signExtended (n v : Nat) : Word := BitVec.ofInt 64 (toSigned (8 * n) v)

def execLdb (o : MOp) (s : State) := scalarLoad (.ldb o) o 1 (signExtended 1) s
def execLdh (o : MOp) (s : State) := scalarLoad (.ldh o) o 2 (signExtended 2) s
def execLdw (o : MOp) (s : State) := scalarLoad (.ldw o) o 4 (signExtended 4) s
def execLdd (o : MOp) (s : State) := scalarLoad (.ldd o) o 8 word s
def execLdbu (o : MOp) (s : State) := scalarLoad (.ldbu o) o 1 word s
def execLdhu (o : MOp) (s : State) := scalarLoad (.ldhu o) o 2 word s
def execLdwu (o : MOp) (s : State) := scalarLoad (.ldwu o) o 4 word s

/-- A release at the scope that the instruction names, if ORD asks for one (R77, R149). -/
def releaseIf (ord : BitVec 2) (scope : BitVec 3) : Op Unit :=
  if ord.getLsbD 1 then do
    releaseOp scope.toNat
    if 3 ≤ scope.toNat then markActed else pure ()
  else pure ()

/-- A scalar store of the low `n` bytes of x[C]. A release is preceded by every older store (R77). -/
def scalarStore (i : Instr) (o : MOp) (n : Nat) (s : State) : Host.Outcome State Fault Refusal :=
  finishNext i (do
    auReads (baseReads o.h o.a)
    let s ← get
    storeAt (s.baseOf o.h o.a) o.ofs.toInt n (s.x o.c).toNat
    releaseIf o.ord o.scope) s

def execStb (o : MOp) (s : State) := scalarStore (.stb o) o 1 s
def execSth (o : MOp) (s : State) := scalarStore (.sth o) o 2 s
def execStw (o : MOp) (s : State) := scalarStore (.stw o) o 4 s
def execStd (o : MOp) (s : State) := scalarStore (.std o) o 8 s

end Sys2Proof.Machine
end

