-- ==== Sys2Proof/Machine/Flags.lean ====
section
/-!
DEFINITION. The sticky flags of FFLAGS (01:R18, 06:R117) and the mode and the random word of a rounding (06:R111, R115).
-/

namespace Sys2Proof.Machine

/-- The six flags, by the bits of R18. -/
abbrev Flags := BitVec 6

def Flags.nv : Flags := 1
def Flags.dz : Flags := 2
def Flags.overflow : Flags := 4
def Flags.underflow : Flags := 8
def Flags.nx : Flags := 16
def Flags.sat : Flags := 32

/-- A flag when a condition holds. -/
def Flags.when_ (b : Bool) (f : Flags) : Flags := if b then f else 0

/-- OR flags into FFLAGS: they are sticky (R18). -/
def orFlags (f : Flags) : Op Unit := modCsr fun c => { c with fflags := c.fflags ||| f.setWidth 64 }

/-- The rounding modes of FRM (R16, R111). -/
inductive Mode where
  | rne | rtz | rdn | rup | rna | sr
  deriving DecidableEq, Repr

def Mode.ofCode : Nat → Mode
  | 1 => .rtz
  | 2 => .rdn
  | 3 => .rup
  | 4 => .rna
  | 5 => .sr
  | _ => .rne

/-- A rounding: its mode and, for SR, its 32-bit random word. -/
structure Rnd where
  mode : Mode
  r : Nat := 0
  deriving DecidableEq, Repr

/-- The random word of a counter value (R115). -/
def randomWord (seed counter : Word) : Nat :=
  let z := counter ^^^ seed
  let z := (z ^^^ (z >>> 29)) * 0x8F3B4C1D9E27A565
  let z := (z ^^^ (z >>> 32)) * 0xE17A2D9463B50C8B
  let z := z ^^^ (z >>> 29)
  z.toNat % 2 ^ 32

/-- The mode of an instruction's rounding field: FRM, or the override FL[2:0] (R122). -/
def Csrs.modeOf (c : Csrs) (fl : Nat) : Mode := Mode.ofCode (if fl = 0 then c.frm.toNat % 8 else fl % 8)

/-- The rounding of a result whose SR counter is SRBASE + e (R115, R122). -/
def Csrs.rnd (c : Csrs) (mode : Mode) (e : Nat) : Rnd :=
  { mode, r := if mode = .sr then randomWord c.srseed (c.srbase + word e) else 0 }

end Sys2Proof.Machine
end

