-- ==== Sys2Proof/Machine/Number.lean ====
section
/-!
DEFINITION. The number formats, exact values and the roundings between them (05:R85; 06:R102 to R119).
-/

namespace Sys2Proof.Machine

/-! Format codes (R85). -/

/-- The container bits of a format code. -/
def container (fmt : Nat) : Nat :=
  match fmt with
  | 0x02 | 0x03 | 0x08 | 0x09 => 16
  | 0x04 | 0x05 | 0x0A => 32
  | 0x06 | 0x07 => 64
  | 0x10 => 2
  | 0x11 | 0x12 | 0x18 => 4
  | _ => 8

def isDefined (fmt : Nat) : Bool := fmt ≤ 0x0C || (0x10 ≤ fmt && fmt ≤ 0x16) || fmt == 0x18

/-- Class I (R121). -/
def isInt (fmt : Nat) : Bool := fmt ≤ 7

/-- INT4 and the signed formats of class I. -/
def isSignedInt (fmt : Nat) : Bool := (fmt ≤ 7 && fmt % 2 == 0) || fmt == 0x18

/-- Class F (R121). -/
def isFp (fmt : Nat) : Bool := 8 ≤ fmt && fmt ≤ 0x0C

def isFp8 (fmt : Nat) : Bool := fmt == 0x0B || fmt == 0x0C

/-- Class B (R121). -/
def isBfp (fmt : Nat) : Bool := 0x10 ≤ fmt && fmt ≤ 0x16

/-- The k of BFPk (R108). -/
def bfpBits (fmt : Nat) : Nat := fmt - 0x0E

/-! Exact values. -/

/-- The value of an element: a NaN, an infinity, or a signed m × 2^e, where m = 0 is a signed zero (R7, R104). -/
inductive Val where
  | nan (signalling : Bool)
  | inf (neg : Bool)
  | fin (neg : Bool) (m : Nat) (e : Int)
  deriving DecidableEq, Repr

def Val.zero : Val := .fin false 0 0

def Val.ofInt (i : Int) : Val := .fin (decide (i < 0)) i.natAbs 0

def Val.isNan : Val → Bool
  | .nan _ => true
  | _ => false

def Val.isSignalling : Val → Bool
  | .nan s => s
  | _ => false

def Val.isFinite : Val → Bool
  | .fin _ _ _ => true
  | _ => false

def Val.isZero : Val → Bool
  | .fin _ m _ => m == 0
  | _ => false

def Val.neg? : Val → Bool
  | .nan _ => false
  | .inf n => n
  | .fin n _ _ => n

def Val.negate : Val → Val
  | .nan s => .nan s
  | .inf n => .inf (!n)
  | .fin n m e => .fin (!n) m e

def Val.abs : Val → Val
  | .nan s => .nan s
  | .inf _ => .inf false
  | .fin _ m e => .fin false m e

def Val.withSign (v : Val) (neg : Bool) : Val := if neg then v.abs.negate else v.abs

/-- Multiply by a power of two (R109). -/
def Val.scale (v : Val) (k : Int) : Val :=
  match v with
  | .fin n m e => .fin n m (e + k)
  | v => v

/-- The signed integer over a common exponent. -/
def signedAt (neg : Bool) (m : Nat) (e low : Int) : Int :=
  let a : Int := (m * 2 ^ (e - low).toNat : Nat)
  if neg then -a else a

/-- Strictly smaller, on numbers and infinities; −0 equals +0. False when either is a NaN. -/
def Val.lt (a b : Val) : Bool :=
  match a, b with
  | .nan _, _ => false
  | _, .nan _ => false
  | .inf n, .inf n' => n && !n'
  | .inf n, .fin _ _ _ => n
  | .fin _ _ _, .inf n => !n
  | .fin n m e, .fin n' m' e' =>
    let low := min e e'
    decide (signedAt n m e low < signedAt n' m' e' low)

/-- Numerically equal; false when either is a NaN. -/
def Val.eq (a b : Val) : Bool := !a.isNan && !b.isNan && !a.lt b && !b.lt a

/-! Floating-point formats (R104, R105). -/

structure FpFmt where
  /-- Exponent bits. -/
  w : Nat
  /-- Fraction bits. -/
  t : Nat
  bias : Nat
  /-- FP8 E4M3: exponent all-ones holds ordinary values but for one NaN. -/
  e4m3 : Bool := false
  deriving DecidableEq, Repr

def fp32 : FpFmt := { w := 8, t := 23, bias := 127 }
def fp16 : FpFmt := { w := 5, t := 10, bias := 15 }
def bf16 : FpFmt := { w := 8, t := 7, bias := 127 }
def e4m3 : FpFmt := { w := 4, t := 3, bias := 7, e4m3 := true }
def e5m2 : FpFmt := { w := 5, t := 2, bias := 15 }

def fpOf (fmt : Nat) : FpFmt :=
  match fmt with
  | 0x08 => fp16
  | 0x09 => bf16
  | 0x0A => fp32
  | 0x0B => e4m3
  | _ => e5m2

def FpFmt.bits (f : FpFmt) : Nat := 1 + f.w + f.t

/-- Exponent of the smallest subnormal. -/
def FpFmt.emin (f : FpFmt) : Int := 1 - (f.bias : Int) - f.t

/-- The largest finite encoding without its sign (R104). -/
def FpFmt.maxCode (f : FpFmt) : Nat :=
  if f.e4m3 then 2 ^ (f.w + f.t) - 2 else (2 ^ f.w - 1) * 2 ^ f.t - 1

/-- The infinity without its sign; E4M3 has none. -/
def FpFmt.infCode (f : FpFmt) : Nat := (2 ^ f.w - 1) * 2 ^ f.t

/-- The canonical NaN (R104). -/
def FpFmt.nanCode (f : FpFmt) : Nat :=
  if f.e4m3 then 0x7F else if f.w = 5 ∧ f.t = 2 then 0x7E else f.infCode + 2 ^ (f.t - 1)

/-- The value of an encoding (R104, R105). -/
def FpFmt.value (f : FpFmt) (bits : Nat) : Val :=
  let neg := bits.testBit (f.w + f.t)
  let e := bits / 2 ^ f.t % 2 ^ f.w
  let frac := bits % 2 ^ f.t
  let finite : Val :=
    if e = 0 then .fin neg frac f.emin else .fin neg (2 ^ f.t + frac) (f.emin + (e - 1 : Nat))
  if f.e4m3 then (if e = 2 ^ f.w - 1 ∧ frac = 2 ^ f.t - 1 then .nan false else finite)
  else if e = 2 ^ f.w - 1 then
    (if frac = 0 then .inf neg else .nan (f.t != 2 && !frac.testBit (f.t - 1)))
  else finite

/-- Bits of a number. -/
def bitLength (m : Nat) : Nat := if m = 0 then 0 else m.log2 + 1

/-- Whether the larger neighbour is chosen: `q` the smaller one's last bits, `frac` the `d` discarded bits (R111, R115). -/
def roundsUp (rnd : Rnd) (neg : Bool) (q frac d : Nat) : Bool :=
  if frac = 0 then false
  else
    match rnd.mode with
    | .rne => decide (2 ^ d < 2 * frac) || (2 ^ d == 2 * frac && q % 2 == 1)
    | .rtz => false
    | .rdn => neg
    | .rup => !neg
    | .rna => decide (2 ^ d ≤ 2 * frac)
    | .sr =>
      if d ≤ 32 then decide (2 ^ d ≤ frac + rnd.r / 2 ^ (32 - d))
      else decide (2 ^ 32 ≤ frac / 2 ^ (d - 32) + rnd.r)

/-- Round m × 2^e to a multiple of 2^u: the multiple, and whether it is inexact. -/
def roundAt (rnd : Rnd) (neg : Bool) (m : Nat) (e u : Int) : Nat × Bool :=
  if u ≤ e then (m * 2 ^ (e - u).toNat, false)
  else
    let d := (u - e).toNat
    let q := m / 2 ^ d
    let frac := m % 2 ^ d
    (q + (if roundsUp rnd neg q frac d then 1 else 0), frac != 0)

/-- The mode gives an infinity on overflow (R112). -/
def overflowsToInf (mode : Mode) (neg : Bool) : Bool :=
  match mode with
  | .rne | .rna | .sr => true
  | .rtz => false
  | .rup => !neg
  | .rdn => neg

/-- Round an exact finite value to a floating-point format (R111 to R113). A saturating overflow sets SAT, as R112 says, also where the mode
itself gives the largest finite value (DEDUCED, notes/assumptions/112.md). -/
def FpFmt.roundFin (f : FpFmt) (rnd : Rnd) (sat : Bool) (neg : Bool) (m : Nat) (e : Int) : Nat × Flags :=
  let sign := if neg then 2 ^ (f.w + f.t) else 0
  if m = 0 then (sign, 0)
  else
    let top := e + bitLength m - 1
    let u := max (top - f.t) f.emin
    let (q, inexact) := roundAt rnd neg m e u
    let code := (u - f.emin).toNat * 2 ^ f.t + q
    if f.maxCode < code then
      let flags := Flags.overflow ||| Flags.nx
      if sat then (sign + f.maxCode, flags ||| Flags.sat)
      else if overflowsToInf rnd.mode neg then (if f.e4m3 then f.nanCode else sign + f.infCode, flags)
      else (sign + f.maxCode, flags)
    else
      let free := (roundAt rnd neg m e (top - f.t)).1
      let tiny := decide (top < f.emin + f.t) && !(top + 1 == f.emin + f.t && free == 2 ^ (f.t + 1))
      (sign + code, if inexact then Flags.nx ||| Flags.when_ tiny Flags.underflow else 0)

/-- Round any value to a floating-point format; `sat` selects the saturating column of R112. A NaN gives the canonical
NaN. -/
def FpFmt.round (f : FpFmt) (rnd : Rnd) (sat : Bool) (v : Val) : Nat × Flags :=
  match v with
  | .nan _ => (f.nanCode, 0)
  | .inf neg =>
    let sign := if neg then 2 ^ (f.w + f.t) else 0
    if f.e4m3 then (if sat then (sign + f.maxCode, Flags.sat) else (f.nanCode, Flags.nv))
    else (sign + f.infCode, 0)
  | .fin neg m e => f.roundFin rnd sat neg m e

/-- Round a finite value to an integer by the mode. -/
def roundInt (rnd : Rnd) (neg : Bool) (m : Nat) (e : Int) : Int × Bool :=
  let (q, inexact) := roundAt rnd neg m e 0
  (if neg then -(q : Int) else q, inexact)

/-- The bounds of an integer of `n` bits (R102, R108). -/
def intMin (n : Nat) (signed : Bool) : Int := if signed then -(2 ^ (n - 1)) else 0
def intMax (n : Nat) (signed : Bool) : Int := if signed then 2 ^ (n - 1) - 1 else 2 ^ n - 1

def clampInt (n : Nat) (signed : Bool) (i : Int) : Int := max (intMin n signed) (min (intMax n signed) i)

/-- Round to an integer format without Sat (R103): the pattern in `n` bits. -/
def toInteger (n : Nat) (signed : Bool) (rnd : Rnd) (v : Val) : Nat × Flags :=
  match v with
  | .nan _ => (0, Flags.nv)
  | .inf neg => (ofSigned n (if neg then intMin n signed else intMax n signed), Flags.nv)
  | .fin neg m e =>
    let (i, inexact) := roundInt rnd neg m e
    let c := clampInt n signed i
    (ofSigned n c, if c ≠ i then Flags.nv else Flags.when_ inexact Flags.nx)

/-- Round to an integer format under Sat (R103, R119). -/
def toIntegerSat (n : Nat) (signed : Bool) (rnd : Rnd) (v : Val) : Nat × Flags :=
  match v with
  | .fin neg m e =>
    let (i, inexact) := roundInt rnd neg m e
    let c := clampInt n signed i
    (ofSigned n c, if c ≠ i then Flags.sat ||| Flags.nx else Flags.when_ inexact Flags.nx)
  | v => toInteger n signed rnd v

/-- Sat of an exact integer (R119). -/
def satInt (n : Nat) (signed : Bool) (i : Int) : Nat × Flags :=
  let c := clampInt n signed i
  (ofSigned n c, Flags.when_ (c != i) Flags.sat)

/-! Exact arithmetic (R114, R130). Each answers the value and NV or DZ. -/

/-- NV for a signalling NaN operand (R107). -/
def nvOf (l : List Val) : Flags := Flags.when_ (l.any Val.isSignalling) Flags.nv

/-- Sum of two finite values with the zero rule of R114. -/
def addFin (mode : Mode) (n : Bool) (m : Nat) (e : Int) (n' : Bool) (m' : Nat) (e' : Int) : Val :=
  let low := min e e'
  let sum := signedAt n m e low + signedAt n' m' e' low
  if sum = 0 then .fin (if m = 0 ∧ m' = 0 ∧ n = n' then n else mode == .rdn) 0 0
  else .fin (decide (sum < 0)) sum.natAbs low

def Val.add (mode : Mode) (a b : Val) : Val × Flags :=
  match a, b with
  | .nan _, _ => (.nan false, nvOf [a, b])
  | _, .nan _ => (.nan false, nvOf [a, b])
  | .inf n, .inf n' => if n = n' then (.inf n, 0) else (.nan false, Flags.nv)
  | .inf n, _ => (.inf n, 0)
  | _, .inf n => (.inf n, 0)
  | .fin n m e, .fin n' m' e' => (addFin mode n m e n' m' e', 0)

def Val.mul (a b : Val) : Val × Flags :=
  match a, b with
  | .nan _, _ => (.nan false, nvOf [a, b])
  | _, .nan _ => (.nan false, nvOf [a, b])
  | .inf n, v => if v.isZero then (.nan false, Flags.nv) else (.inf (n != v.neg?), 0)
  | v, .inf n => if v.isZero then (.nan false, Flags.nv) else (.inf (n != v.neg?), 0)
  | .fin n m e, .fin n' m' e' => (.fin (n != n') (m * m') (e + e'), 0)

/-- a × b + c with one rounding to come (R129, R130). -/
def Val.fma (mode : Mode) (a b c : Val) : Val × Flags :=
  let (p, f) := a.mul b
  let (y, f') := p.add mode c
  (y, f ||| f' ||| nvOf [a, b, c])

/-- Bits that a quotient, a root or a power keeps beyond every format; a last bit set says that more follow. -/
def guardBits : Nat := 320

def Val.div (a b : Val) : Val × Flags :=
  match a, b with
  | .nan _, _ => (.nan false, nvOf [a, b])
  | _, .nan _ => (.nan false, nvOf [a, b])
  | .inf n, v => if v.isFinite then (.inf (n != v.neg?), 0) else (.nan false, Flags.nv)
  | .fin n _ _, .inf n' => (.fin (n != n') 0 0, 0)
  | .fin n m e, .fin n' m' e' =>
    if m' = 0 then (if m = 0 then (.nan false, Flags.nv) else (.inf (n != n'), Flags.dz))
    else
      let num := m * 2 ^ guardBits
      (.fin (n != n') (num / m' * 2 + (if num % m' = 0 then 0 else 1)) (e - e' - guardBits - 1), 0)

/-- Integer square root by its bits, the highest first. -/
def rootBits (n : Nat) : Nat → Nat → Nat
  | 0, r => r
  | k + 1, r => let c := r + 2 ^ k; rootBits n k (if c * c ≤ n then c else r)

def Val.sqrt (a : Val) : Val × Flags :=
  match a with
  | .nan s => (.nan false, Flags.when_ s Flags.nv)
  | .inf n => if n then (.nan false, Flags.nv) else (.inf false, 0)
  | .fin n m e =>
    if m = 0 then (.fin n 0 0, 0)
    else if n then (.nan false, Flags.nv)
    else
      let odd := (e % 2).toNat
      let num := m * 2 ^ odd * 2 ^ (2 * guardBits)
      let r := rootBits num (bitLength num / 2 + 1) 0
      (.fin false (r * 2 + (if r * r = num then 0 else 1)) ((e - odd) / 2 - guardBits - 1), 0)

/-- Fixed-point bits of the exponential. -/
def expBits : Nat := 576

/-- ln 2 in units of 2^−expBits, from the series of 1 / (k × 2^k). -/
def ln2Fixed : Nat := (List.range expBits).foldl (fun acc k => acc + 2 ^ expBits / ((k + 1) * 2 ^ (k + 1))) 0

/-- e^x for 0 ≤ x < 1 in units of 2^−expBits: `n` terms of the series from term `k` on. -/
def expSeries (x : Nat) : Nat → Nat → Nat → Nat
  | 0, _, _ => 0
  | n + 1, k, term => term + expSeries x n (k + 1) (term * x / 2 ^ expBits / (k + 1))

/-- 2^a (R130). A non-integer a gives an irrational value, whose last bit here is set. -/
def Val.exp2 (a : Val) : Val × Flags :=
  match a with
  | .nan s => (.nan false, Flags.when_ s Flags.nv)
  | .inf n => (if n then .fin false 0 0 else .inf false, 0)
  | .fin n m e =>
    let x := if n then -(m : Int) else m
    let whole : Int := if e < 0 then x / (2 ^ (-e).toNat : Nat) else x * (2 ^ (min e 64).toNat : Nat)
    let fracNum : Int := if e < 0 then x % (2 ^ (-e).toNat : Nat) else 0
    let whole := max (-8192) (min 8192 whole)
    if fracNum = 0 then (.fin false 1 whole, 0)
    else
      let f := fracNum.toNat * 2 ^ expBits / 2 ^ (-e).toNat
      let y := expSeries (f * ln2Fixed / 2 ^ expBits) 160 0 (2 ^ expBits)
      (.fin false (y * 2 + 1) (whole - expBits - 1), 0)

/-- The smaller or the larger by R130: −0 below +0; one NaN gives the other operand. -/
def Val.minmax (larger : Bool) (a b : Val) : Val × Flags :=
  let f := nvOf [a, b]
  if a.isNan && b.isNan then (.nan false, f)
  else if a.isNan then (b, f)
  else if b.isNan then (a, f)
  else
    let below := a.lt b || (a.isZero && b.isZero && a.neg? && !b.neg?)
    (if larger then (if below then b else a) else (if below then a else b), f)

/-! Elements (R102, R104, R108, R109, R124). -/

/-- The value of a container under a format and its block exponent; the exponent is ignored but for BFP and scaled FP8. -/
def elemValue (fmt : Nat) (scl : Bool) (x : Int) (bits : Nat) : Val :=
  if isBfp fmt then
    let k := bfpBits fmt
    let m := toSigned k bits
    .fin (decide (m < 0)) m.natAbs (x - (k - 1 : Nat))
  else if isFp fmt then ((fpOf fmt).value bits).scale (if scl then x else 0)
  else .ofInt (if isSignedInt fmt then toSigned (container fmt) bits else (bits % 2 ^ container fmt : Nat))

/-- Write a floating-point result through its block exponent (R109). -/
def putFp (fmt : Nat) (scl : Bool) (x : Int) (rnd : Rnd) (sat : Bool) (v : Val) : Nat × Flags :=
  (fpOf fmt).round rnd sat (v.scale (if scl then -x else 0))

/-- A scalar or immediate operand as a container of the format (R35). -/
def scalarElem (fmt : Nat) (v : Word) : Nat :=
  if isFp fmt then ((fpOf fmt).round { mode := .rne } false (fp32.value (v.toNat % 2 ^ 32))).1
  else v.toNat % 2 ^ container fmt

end Sys2Proof.Machine
end

