-- ==== Sys2Proof/Machine/Pattern.lean ====
section
/-!
DEFINITION. Pattern records, the element sequences they define, and the elements of a stream (15:R273, R274, R277 to R280).
-/

namespace Sys2Proof.Machine

/-! The fields of a record (R273). -/

def APReg.header (p : APReg) : Nat := bitsAt p.toNat 0 32
def APReg.dims (p : APReg) : Nat := bitsAt p.toNat 0 3
def APReg.esz (p : APReg) : Nat := bitsAt p.toNat 4 2
def APReg.indexed (p : APReg) : Bool := p.getLsbD 6
def APReg.count (p : APReg) (j : Nat) : Nat := bitsAt p.toNat (32 + 32 * j) 32
def APReg.stride (p : APReg) (j : Nat) : Int := toSigned 48 (bitsAt p.toNat (224 + 48 * j) 48)

/-- Bytes of an element. -/
def APReg.size (p : APReg) : Nat := 2 ^ APReg.esz p

/-- DIMS is 1 to 6 and every reserved bit is zero (R277, R285). -/
def APReg.wellFormed (p : APReg) : Bool :=
  1 ≤ APReg.dims p && APReg.dims p ≤ 6 && !p.getLsbD 3 && bitsAt p.toNat 7 25 == 0

/-- The number of elements (R274). -/
def APReg.total (p : APReg) : Nat := (List.range (APReg.dims p)).foldl (fun n j => n * APReg.count p j) 1

/-- The index of dimension `j` in element `n` of the sequence, dimension 0 varying fastest. -/
def APReg.index (p : APReg) (n j : Nat) : Nat :=
  n / (List.range j).foldl (fun k i => k * APReg.count p i) 1 % APReg.count p j

/-- The entry of the index list that element `n` uses (R274). -/
def APReg.listIndex (p : APReg) (n : Nat) : Nat := APReg.index p n (APReg.dims p - 1)

/-- The byte offset of element `n` from the base; `entry` is its index-list word (R274). -/
def APReg.offset (p : APReg) (n entry : Nat) : Int :=
  (List.range (APReg.dims p)).foldl (fun acc j =>
    acc + (if APReg.indexed p && j + 1 == APReg.dims p then (entry : Int) else (APReg.index p n j : Int)) * APReg.stride p j) 0

/-- The place of a read of `n` bytes by an engine with a hart's rights, with the checks of R147 on the element. -/
def State.checkRead (s : State) (q : Req) (b : Base) (o : Int) (n : Nat) : Except Failure (Word × Target) :=
  match s.checkAccess q b o n with
  | .error t => .error { cause := t.cause, addr := t.addr, info := t.info, covered := q.covered }
  | .ok (ea, .absent bad) => .error { cause := .pageFault, addr := ea, bad, covered := q.covered }
  | .ok (ea, .at_ t) => .ok (ea, t)

/-- Read `n` bytes for an engine, or say why not. The read waits for the hart's older commands on the scratchpad (R171, R289). -/
def engineRead (q : Req) (b : Base) (o : Int) (n : Nat) : Op (Except Failure Nat) := do
  let s ← get
  match s.checkRead q b o n with
  | .error f => pure (.error f)
  | .ok (ea, t) => do
    holdFor q [t] n
    modify fun s => s.touch q t
    if (← get).poisonAt q t n then pure (.error { cause := .poisonedData, addr := ea, covered := q.covered })
    else do
      let v ← readTarget q t n false
      pure (.ok v)

/-- The index-list word of element `n`; 0 for an affine record. The list is at a plain address (R274, R277). -/
def listEntry (q : Req) (p : APReg) (list : Word) (n : Nat) : Op (Except Failure Nat) :=
  if APReg.indexed p then engineRead { q with covered := false } (.plain list) (4 * APReg.listIndex p n) 4
  else pure (.ok 0)

def Stream.origin (st : Stream) : Base :=
  match st.view with
  | some h => .view st.number h
  | none => .plain st.base

/-- Element `n` of a stream's sequence, read now (R277, R279). -/
def streamElem (q : Req) (st : Stream) (n : Nat) : Op (Except Failure Nat) := do
  match ← listEntry q st.pattern st.list n with
  | .error f => pure (.error f)
  | .ok entry =>
    engineRead { q with covered := st.view.isSome } st.origin (APReg.offset st.pattern n entry) (APReg.size st.pattern)

/-- Raise a held failure at the popping instruction; a page fault has PART 0 (R279). -/
def raiseFailure {α : Type} (q : Req) (src : Nat) (f : Failure) : Op α :=
  if f.cause = .pageFault then pageFault { q with covered := f.covered } src [{ va := f.addr, bad := f.bad }] true
  else trap f.cause f.addr f.info

/-- The request of a stream's reads: the task's address space at every privilege (R277). -/
def Hart.streamReq (h : Hart) : Req := { h.req with asid := h.asid }

/-- The stream of a register, if it is on. -/
def Hart.stream (h : Hart) (r : Nat) : Option Stream := if r < 48 then none else (h.streams.getD (r - 48) none)

def Hart.setStream (h : Hart) (r : Nat) (st : Option Stream) : Hart :=
  { h with streams := h.streams.setIfInBounds (r - 48) st }

/-- The next `n` elements of a stream as one number, each in its container of the record's size; the elements past the end
are zero. POS is left as it is. A failure that stands in the buffer is dropped, so that the read is tried again. -/
def popData (r n : Nat) (st : Stream) : Op Nat := do
  let s ← get
  let q := s.hart.streamReq
  let total := APReg.total st.pattern
  trapIf (total ≤ st.pos) .streamMisuse 0 3
  let bits := 8 * APReg.size st.pattern
  (List.range n).foldlM (fun acc e => do
    if total ≤ st.pos + e then pure acc
    else
      let v ← (match st.buf[e]? with
        | some (.value v) => pure v
        | some (.failure f) => do
          modHart fun h => h.setStream r (some { st with buf := st.buf.take e })
          raiseFailure q 4 f
        | none => do
          match ← streamElem q st (st.pos + e) with
          | .ok v => pure v
          | .error f => raiseFailure q 4 f)
      pure (acc + v * 2 ^ (bits * e))) 0

/-- A pop of `n` elements finds fewer of them in the buffer than the sequence still has: it waits for a refill (R272). -/
def Stream.awaits (st : Stream) (n : Nat) : Bool := decide (st.buf.length < min n (APReg.total st.pattern - st.pos))

/-- POS advances past `n` popped elements (R278). -/
def Stream.advance (st : Stream) (n : Nat) : Stream :=
  { st with pos := min (APReg.total st.pattern) (st.pos + n), buf := st.buf.drop n }

end Sys2Proof.Machine
end

