-- ==== Sys2Proof/Machine/Operands.lean ====
section
/-!
DEFINITION. The operand forms of the vector instructions: groups, masks, tails, scalar and immediate operands, stream
registers (02:R35; 05:R84 to R94; 07:R120 to R124; 15:R278).
-/

namespace Sys2Proof.Machine

/-- VL and VTY as an instruction takes them (R84, R91). -/
structure Cfg where
  vl : Nat
  fmt : Nat
  /-- The grouping G. -/
  g : Nat
  scl : Bool
  tailz : Bool
  deriving DecidableEq, Repr

def cfgOf (vl vty : Word) : Cfg :=
  { vl := vl.toNat, fmt := bitsAt vty.toNat 0 5, g := 2 ^ bitsAt vty.toNat 5 2, scl := vty.getLsbD 7,
    tailz := vty.getLsbD 8 }

def Hart.cfg (h : Hart) : Cfg := cfgOf h.csr.vl h.csr.vty

def State.cfg (s : State) : Cfg := s.hart.cfg

/-- Container bits. -/
def Cfg.w (c : Cfg) : Nat := container c.fmt

/-- Elements of a group of `g` registers of `w`-bit containers (R87). -/
def elemsOf (g w : Nat) : Nat := g * (2048 / w)

def Cfg.vlmax (c : Cfg) : Nat := elemsOf c.g c.w

/-- The group of an operand with containers of `w'` bits: its registers, 0 where it is less than one (R132). -/
def Cfg.groupOf (c : Cfg) (w' : Nat) : Nat := c.g * w' / c.w

/-! Register groups as one number: element e lies at bit w × e, since w divides 2048 (R88). -/

def VFile.reg (f : VFile) (r : Nat) : Nat := (f.v.getD r 0).toNat

def VFile.group (f : VFile) (r : Nat) : Nat → Nat
  | 0 => 0
  | g + 1 => f.reg r + 2 ^ 2048 * f.group (r + 1) g

def VFile.setReg (f : VFile) (r v : Nat) : VFile := { f with v := f.v.setIfInBounds r (BitVec.ofNat 2048 v) }

def VFile.setGroup (f : VFile) (r : Nat) : Nat → Nat → VFile
  | 0, _ => f
  | g + 1, v => (f.setReg r v).setGroup (r + 1) g (v / 2 ^ 2048)

def VFile.scaleReg (f : VFile) (r : Nat) : Nat := (f.e.getD r 0).toNat

def VFile.setScale (f : VFile) (r v : Nat) : VFile := { f with e := f.e.setIfInBounds r (BitVec.ofNat 256 v) }

/-- The signed exponent of element `e`'s block in a group at `r` of `w`-bit containers (R88). -/
def VFile.exponent (f : VFile) (r w e : Nat) : Int :=
  let n := 2048 / w
  toSigned 8 (bitsAt (f.scaleReg (r + e / n)) (8 * (e % n / 32)) 8)

/-- Blocks of a register of `w`-bit containers (R88). -/
def blocksOf (w : Nat) : Nat := 2048 / w / 32

def elemAt (w grp e : Nat) : Nat := bitsAt grp (w * e) w

/-- The group whose elements are listed. -/
def packElems (w : Nat) : List Nat → Nat
  | [] => 0
  | v :: rest => v % 2 ^ w + 2 ^ w * packElems w rest

/-- The value of element `e` of a group at register `r` (R124). -/
def VFile.elem (f : VFile) (c : Cfg) (r grp e : Nat) : Val :=
  elemValue c.fmt c.scl (f.exponent r c.w e) (elemAt c.w grp e)

/-! Active elements (R92). -/

def Hart.maskBit (h : Hart) (msk e : Nat) : Bool := (h.getM msk).getLsbD e

def Hart.selected (h : Hart) (msk e : Nat) : Bool := msk == 0 || h.maskBit msk e

/-- Bit `e` of a destination after R92 and R93. -/
def destElem (c : Cfg) (active mz : Bool) (e old new : Nat) : Nat :=
  if e < c.vl then (if active then new else if mz then 0 else old) else if c.tailz then 0 else old

/-- The destination group of an element-wise instruction, and the flags of its active elements. -/
def mapElems (c : Cfg) (w total : Nat) (active : Nat → Bool) (mz : Bool) (old : Nat) (f : Nat → Nat × Flags) :
    Nat × Flags :=
  let one (e : Nat) : Nat × Flags :=
    let o := elemAt w old e
    if e < c.vl && active e then
      let (v, fl) := f e
      (v, fl)
    else (destElem c false mz e o 0, 0)
  let l := (List.range total).map one
  (packElems w (l.map (·.1)), l.foldl (fun acc p => acc ||| p.2) 0)

/-- A mask destination (R92, R93). -/
def mapMask (c : Cfg) (active : Nat → Bool) (mz : Bool) (old : MReg) (f : Nat → Bool) : MReg :=
  let bits := packElems 1 ((List.range c.vl).map fun e =>
    if active e then (if f e then 1 else 0) else if mz then 0 else if old.getLsbD e then 1 else 0)
  BitVec.ofNat 8192 (bits + (if c.tailz then 0 else old.toNat / 2 ^ c.vl * 2 ^ c.vl))

/-! Operand checks (R87, R123, R197) and stream registers (R278). -/

/-- A vector operand: its register and the registers of its group. -/
structure Opd where
  r : Nat
  g : Nat
  deriving DecidableEq, Repr

def Opd.of (r : Reg) (g : Nat) : Opd := { r := r.toNat, g }

/-- Aligned, inside the file, below VREGS. -/
def Opd.ok (vregs : Nat) (o : Opd) : Bool := o.r % max 1 o.g == 0 && o.r + o.g ≤ min 64 vregs

def Opd.disjoint (a b : Opd) : Bool := a.r + a.g ≤ b.r || b.r + b.g ≤ a.r

/-- Operand groups of one width are identical or disjoint (R124). -/
def Opd.sameOrApart (a b : Opd) : Bool := a == b || a.disjoint b

/-- A mask destination at task privilege is m1 to m6 (R94). -/
def Hart.maskDestOk (h : Hart) (m : Nat) : Bool := h.firmware || m != 7

/-- A register of the group streams. -/
def Hart.streams? (h : Hart) (o : Opd) : Bool := (List.range o.g).any fun k => (h.stream (o.r + k)).isSome

/-- The stream may supply a vector instruction's strips: a container of at least 8 bits, of the record's size. -/
def Stream.fits (st : Stream) (w : Nat) : Bool := 8 ≤ w && w == 8 * APReg.size st.pattern

/-- What R278 forbids: a stream register written, in a group of several registers, or of another element size. -/
def Hart.misusesStream (h : Hart) (w : Nat) (dests srcs : List Opd) : Bool :=
  dests.any (h.streams? ·) || srcs.any fun o =>
    h.streams? o && (o.g != 1 || !((h.stream o.r).elim true (·.fits w)))

/-- The distinct stream registers among the sources. -/
def Hart.streamSources (h : Hart) (srcs : List Opd) : List Nat :=
  (sortDistinct (srcs.map (·.r))).filter fun r => (h.stream r).isSome

/-- Pops that waited for a refill are counted (R272). -/
def Hart.countStreamWaits (h : Hart) (n : Nat) : Hart :=
  { h with counters := { h.counters with strwait := BitVec.ofNat 32 (min 0xFFFFFFFF (h.counters.strwait.toNat + n)) } }

/-- Element `e` of an index operand of `iw` bits at register `r`, whose group is `grp`. A stream's strip stands packed at the
container of VTY, and its element is cut to the index's width (R278; DEDUCED, notes/assumptions/73.md). -/
def Hart.indexElem (h : Hart) (c : Cfg) (iw r grp e : Nat) : Nat :=
  if (h.stream r).isSome then elemAt c.w grp e % 2 ^ iw else elemAt iw grp e

/-- Run a vector instruction's body with its stream sources popped: the strip stands in the register while the body runs, and
POS advances when it completes (R278). -/
def withStreams {α : Type} (vl : Nat) (srcs : List Opd) (body : Op α) : Op α := do
  let s ← get
  let regs := s.hart.streamSources srcs
  let data ← regs.mapM fun r => do
    match (← get).hart.stream r with
    | some st => if vl = 0 then pure (r, 0) else do
      let v ← popData r vl st
      pure (r, v)
    | none => pure (r, 0)
  modHart fun h => { h with own := data.foldl (fun f p => f.setReg p.1 p.2) h.own }
  let a ← body
  modHart fun h => regs.foldl (fun h r => h.setStream r ((h.stream r).map (·.advance vl))) h
  modHart (·.countStreamWaits (regs.countP fun r => vl != 0 && (s.hart.stream r).elim false (·.awaits vl)))
  pure a

/-- The checks and the pops that a vector instruction shares: `legal` are the checks of R123 that are its own. What `body` checks besides,
the name, range and FOL of R183 among it, comes after the misuse of a stream and after a pop that fails (DEDUCED, notes/assumptions/27.md). -/
def vectorOp {α : Type} (legal : Cfg → Bool) (dests srcs : Cfg → List Opd) (body : Cfg → Op α) : Op α := do
  let s ← get
  let c := s.cfg
  illegalIf !(legal c && (dests c ++ srcs c).all (·.ok s.hart.task.vregs))
  trapIf (s.hart.misusesStream c.w (dests c) (srcs c)) .streamMisuse 0 2
  withStreams c.vl (srcs c) (body c)

/-! The B operand of a two-source instruction (R35, R120). -/

/-- The scalar value of FORM 0b01 or 0b10. -/
def State.bScalar (s : State) (o : GOp) : Word := if o.form = 1 then s.x o.b else sext32 o.imm

/-- The container of the B operand at element `e`. -/
def State.bElem (s : State) (c : Cfg) (o : GOp) (grp e : Nat) : Nat :=
  if o.form = 0 then elemAt c.w grp e else scalarElem c.fmt (s.bScalar o)

/-- The value of the B operand at element `e`; a scalar takes no block scale (R124). -/
def State.bValue (s : State) (c : Cfg) (o : GOp) (grp e : Nat) : Val :=
  if o.form = 0 then s.hart.own.elem c o.b.toNat grp e else elemValue c.fmt false 0 (scalarElem c.fmt (s.bScalar o))

/-- The vector operand in field B, if the FORM has one. -/
def bOpd (o : GOp) (g : Nat) : List Opd := if o.form = 0 then [Opd.of o.b g] else []

/-- Write a destination group and the flags of its elements. -/
def setGroup (r : Reg) (g : Nat) (v : Nat × Flags) : Op Unit := do
  modHart fun h => { h with own := h.own.setGroup r.toNat g v.1 }
  orFlags v.2

end Sys2Proof.Machine
end

