-- ==== Sys2Proof/Machine/VectorMem.lean ====
section
/-!
DEFINITION. Vector accesses to memory: the three stages of an access, progress, probes, and the instructions of OPC 0x90 but
for VLDR (05:R94; 07:R145 to R151; 13:R240, R243, R244; 21:R364, R368).
-/

namespace Sys2Proof.Machine

/-- One element of an access: its index, its offset from the base. -/
structure Elem where
  idx : Nat
  off : Int
  deriving DecidableEq, Repr

/-- The element has completed before the instruction stopped part-way (R94, R368). -/
def Hart.progressed (h : Hart) (e : Nat) : Bool := !h.firmware && h.csr.elx != 0 && (h.getM 7).getLsbD e

/-- Active and not yet completed (R92, R368). -/
def Hart.pending (h : Hart) (msk e : Nat) : Bool := h.selected msk e && !h.progressed e

/-- An element at its place. -/
structure Placed where
  idx : Nat
  va : Word
  loc : Located
  deriving DecidableEq, Repr

/-- The pre-checks of R147 on elements of `n` bytes, kind by kind, each for the lowest-numbered element that fails;
for atomics, those of R246 (R252). A walk that reads a poisoned bucket (R228) stops the element at the permission step (DEDUCED,
notes/assumptions/115.md). -/
def State.precheck (s : State) (q : Req) (b : Base) (n : Nat) (elems : List Elem) : Except Trap (List Placed) := do
  let at_ := elems.map fun e => (e, s.addrAt q.asid b e.off)
  let raise (c : Cause) (info : Word) (p : Elem × Word → Bool) : Except Trap Unit :=
    match at_.find? p with
    | some (_, va) => .error { cause := c, addr := va, info }
    | none => .ok ()
  raise .protection 0 fun p => decide (2 ^ 56 ≤ p.2.toNat) || (q.atomic && regionOf q.place.die p.2 == .unassigned)
  raise (if q.atomic then .atomicAlignment else .misalignedAccess) 0 fun p => p.2.toNat % n != 0
  match at_.find? fun p => b.refuses p.1.off n || q.write && b.readOnly with
  | some (e, va) => throw { cause := if b.refuses e.off n then .viewBound else .sharedWrite, addr := va, info := b.number }
  | none => pure ()
  raise .weightStoreWrite 0 fun p => q.write && match regionOf q.place.die p.2 with | .weights _ _ => true | _ => false
  at_.mapM fun p => do return { idx := p.1.idx, va := p.2, loc := ← s.locateFor q p.2 }

/-- What performing the elements left. -/
structure Performed where
  /-- Completed elements and what each answered. -/
  done : List (Nat × Nat) := []
  missing : List (Nat × Missing) := []
  poisoned : List (Nat × Word) := []
  /-- Elements of a probe that are not resident (R240). -/
  gone : List Nat := []
  deriving DecidableEq, Repr

def Performed.stopped (p : Performed) : Bool := !p.missing.isEmpty || !p.poisoned.isEmpty

/-- What poison does to the elements of an access: a store meets none; a load, on the read-only path or not, and an atomic stop at
it (R147, R246). -/
inductive Meets where
  | never
  | load (ro : Bool)
  | atomic
  deriving DecidableEq, Repr

def Meets.poison (m : Meets) (s : State) (q : Req) (t : Target) (n : Nat) : Bool :=
  match m with
  | .never => false
  | .atomic => s.poisonIn q.place t.pa t.pa n
  | .load ro => s.poisonedRead q t n ro

/-- Perform one element of `n` bytes that is present; under DET nothing performs after the first element that cannot (R147,
R148). The access leaves its marks on the way whether poison stops it or not (R211, R229). -/
def performPresent (q : Req) (n : Nat) (m : Meets) (det : Bool) (act : Nat → Target → Op Nat) (acc : Performed) (p : Placed)
    (t : Target) : Op Performed := do
  if det && acc.stopped then pure acc
  else do
    modify fun s => s.touch q t
    if m.poison (← get) q t n then pure { acc with poisoned := acc.poisoned ++ [(p.idx, p.va)] }
    else do
      let v ← act p.idx t
      pure { acc with done := acc.done ++ [(p.idx, v)] }

/-- One element of an access: a missing page stops it. -/
def performElem (q : Req) (n : Nat) (m : Meets) (det : Bool) (act : Nat → Target → Op Nat) (acc : Performed) (p : Placed) :
    Op Performed :=
  match p.loc with
  | .absent bad => pure { acc with missing := acc.missing ++ [(p.idx, { va := p.va, bad })] }
  | .at_ t => performPresent q n m det act acc p t

/-- One element of a probe: one that is not resident completes with zero (R240, R244). -/
def probeElem (q : Req) (n : Nat) (ro det : Bool) (act : Nat → Target → Op Nat) (acc : Performed) (p : Placed) : Op Performed :=
  match p.loc with
  | .absent _ =>
    if det && acc.stopped then pure acc
    else pure { acc with done := acc.done ++ [(p.idx, 0)], gone := acc.gone ++ [p.idx] }
  | .at_ t => performPresent q n (.load ro) det act acc p t

/-- The targets of the elements that are present. -/
def targetsOf (l : List Placed) : List Target := l.filterMap fun p => match p.loc with | .at_ t => some t | _ => none

/-- The lowest of the listed indices. -/
def lowestIdx (l : List Nat) : Option Nat := (sortDistinct l).head?

/-- The progress that completed elements make (R94, R148). -/
def Hart.advance (h : Hart) (done : List Nat) : Hart :=
  if h.firmware then h else
  { h.setM 7 (BitVec.ofNat 8192 (done.foldl (fun m e => m ||| 2 ^ e) (h.getM 7).toNat)) with
    csr := { h.csr with elx := word (done.foldl (fun m e => max m (e + 1)) h.csr.elx.toNat) } }

/-- Stop part-way: record the completed elements, then raise the cause of the lowest-numbered element that could not perform
(R94, R147, R148). -/
def stopPartWay {α : Type} (q : Req) (p : Performed) : Op α := do
  modHart (·.advance (p.done.map (·.1)))
  let firstMissing := lowestIdx (p.missing.map (·.1))
  let firstPoison := lowestIdx (p.poisoned.map (·.1))
  if firstPoison.isSome && (firstMissing.isNone || decide (firstPoison.getD 0 < firstMissing.getD 0)) then
    throw (.trap { cause := .poisonedData
                   addr := (p.poisoned.map (·.2)).foldl (fun a b => if b < a then b else a) ((p.poisoned.head?.map (·.2)).getD 0) })
  else pageFault q 0 (p.missing.map (·.2))

/-- The place of an atomic before its poison is checked: the stores to its bytes that the hart sees have performed (R260). -/
def settleTarget (q : Req) (t : Target) (n : Nat) : Op Unit := modify fun s => (s.touch q t).settle q t.pa n

/-- The pre-check of poison over the elements of an atomic instruction: it is the last step of R246, after that of the missing
pages, so where a page is missing the elements stop the instruction as they perform (R147, R252; notes/assumptions/22.md). -/
def atomicPoison (q : Req) (n : Nat) (placed : List Placed) : Op Unit := do
  (targetsOf placed).forM fun t => settleTarget q t n
  let s ← get
  match placed.find? fun p => match p.loc with | .at_ t => s.poisonIn q.place t.pa t.pa n | _ => false with
  | some p => trapIf ((targetsOf placed).length == placed.length) .poisonedData p.va
  | none => pure ()

/-- Where a forced stop, or the stop of a gang that is rerun, lets an access in elements end (R375, R380): after the elements of a list;
none where the access runs on. -/
abbrev StopAfter := Option (List Nat)

/-- The elements of an access may be the ones that perform before a stop: under DET they are the lowest, and of two writes of a byte
the lower element performs first (R148, R149). -/
def stopAllowed (q : Req) (n : Nat) (det : Bool) (now : List Nat) (placed : List Placed) : Bool :=
  placed.all fun p => !(now.contains p.idx) || placed.all fun p' => now.contains p'.idx || decide (p.idx < p'.idx) ||
    !(det || (q.write && decide (p'.va.toNat < p.va.toNat + n) && decide (p.va.toNat < p'.va.toNat + n)))

/-- The elements that perform before a stop. -/
def beforeStop (q : Req) (n : Nat) (stop : StopAfter) (placed : List Placed) : Op (List Placed) := do
  match stop with
  | none => pure placed
  | some now => do
    if !(stopAllowed q n (← get).hart.det now placed) then wait
    pure (placed.filter fun p => now.contains p.idx)

/-- The instruction stands at its stop, with its progress, unless all its elements have performed (R375). -/
def standAt (stop : StopAfter) (elems : List Nat) (done : List Nat) : Op Unit := do
  if stop.isSome && elems.any (!done.contains ·) then do
    modHart (·.advance done)
    wait

/-- A vector access: pre-checks, then the elements, then `commit` with the completed ones; it stops part-way if one could not
perform. A hart whose fault-record queue has no room waits before anything performs (R362). -/
def vectorAccess (q : Req) (b : Base) (n : Nat) (m : Meets) (elems : List Elem) (act : Nat → Target → Op Nat)
    (commit : List (Nat × Nat) → Op Unit) (stop : StopAfter := none) : Op Unit := do
  let s ← get
  let all ← check (s.precheck q b n elems)
  let placed ← beforeStop q n stop all
  holdFor q (targetsOf placed) n
  if m = .atomic then atomicPoison q n placed else pure ()
  let absent := placed.filterMap fun p => match p.loc with | .absent bad => some { va := p.va, bad : Missing } | _ => none
  if !absent.isEmpty && s.mustWait s.hart.place.die (missingPages absent).length then wait
  else do
    let r ← placed.foldlM (performElem q n m s.hart.det act) {}
    commit r.done
    if r.stopped then stopPartWay q r else standAt stop (elems.map (·.idx)) (r.done.map (·.1))

/-! The register file of an access: the hart's own, or the follower's with FAR (R151). -/

def Hart.file (h : Hart) (far : Bool) : VFile := if far then h.far else h.own
def Hart.setFile (h : Hart) (far : Bool) (f : VFile) : Hart := if far then { h with far := f } else { h with own := f }

def farOf (o : MOp) : Bool := o.aux.getLsbD 7

/-- Put the completed elements of a load into its destination group (R148). -/
def putDone (far : Bool) (r g w : Nat) (done : List (Nat × Nat)) : Op Unit :=
  modHart fun h =>
    let v := done.foldl (fun v d => putBits v (w * d.1) w d.2) ((h.file far).group r g)
    h.setFile far ((h.file far).setGroup r g v)

/-- Masked-off elements and the tail, written when the instruction completes (R92, R93, R148). -/
def settleDest (c : Cfg) (far : Bool) (r : Nat) (msk : Nat) (mz : Bool) : Op Unit :=
  modHart fun h =>
    let old := (h.file far).group r c.g
    let v := packElems c.w ((List.range c.vlmax).map fun e =>
      let x := elemAt c.w old e
      destElem c (h.selected msk e) mz e x x)
    h.setFile far ((h.file far).setGroup r c.g v)

/-- The index width of a format-M instruction. -/
def indexWidth (o : MOp) : Nat := 8 * 2 ^ o.ixw.toNat

/-- The registers of an index group (R146). -/
def indexGroup (c : Cfg) (iw : Nat) : Nat := max 1 (c.groupOf iw)

/-- How the elements of an access are addressed (R146). -/
inductive Addressing where
  | unit
  | strided
  | indexed
  deriving DecidableEq, Repr

/-- The offset of element `e` (R146): bytes from the base, OFS included. -/
def State.elemOffset (s : State) (o : MOp) (c : Cfg) (mode : Addressing) (e : Nat) : Int :=
  o.ofs.toInt + match mode with
    | .unit => ((e * c.w / 8 : Nat) : Int)
    | .strided => (e : Int) * (s.x o.b).toInt
    | .indexed =>
      ((s.hart.indexElem c (indexWidth o) o.b.toNat (s.hart.own.group o.b.toNat (indexGroup c (indexWidth o))) e * 2 ^ (o.aux.toNat % 4) : Nat) : Int)

/-- The execution checks that the addressing adds; `d` is a load's destination group (R146). -/
def addressingOk (o : MOp) (mode : Addressing) (d : Option Opd) (c : Cfg) : Bool :=
  match mode with
  | .unit => true
  | .strided => 8 ≤ c.w
  | .indexed => 8 ≤ c.w && c.groupOf (indexWidth o) ≤ 8 &&
      d.elim true fun d => d.disjoint (Opd.of o.b (indexGroup c (indexWidth o)))

def indexOpd (o : MOp) (mode : Addressing) (c : Cfg) : List Opd :=
  if mode = .indexed then [Opd.of o.b (indexGroup c (indexWidth o))] else []

/-- Scalars that the access unit reads for an access. -/
def vectorReads (o : MOp) (mode : Addressing) : List Reg :=
  baseReads o.h o.a ++ if mode = .strided then [o.b] else []

/-- Elements of at least one byte; a sub-byte element is reached through its byte. -/
def Cfg.bytes (c : Cfg) : Nat := max 1 (c.w / 8)

/-- The bit position of element `e` in the bytes that its access moves. -/
def Cfg.bitInByte (c : Cfg) (e : Nat) : Nat := if c.w < 8 then e * c.w % 8 else 0

/-- FAR needs the leader of a pair (R151). -/
def checkFar (far : Bool) : Op Unit := do illegalIf (far && !(← get).hart.leader)

/-- A probe (R240): the elements in order, the destination group and the residency mask `r`. An element that is not resident counts
as completed; whether a page is resident is judged by a fresh walk. -/
def probe (q : Req) (n : Nat) (ro far : Bool) (c : Cfg) (d : Nat) (all : List Placed) (act : Nat → Target → Op Nat)
    (settle : Performed → Bool → Op Unit) (stop : StopAfter := none) : Op Unit := do
  let placed ← beforeStop q n stop all
  holdFor q (targetsOf placed) n
  let r ← placed.foldlM (probeElem q n ro (← get).hart.det act) {}
  let done := r.done.map (·.1)
  putDone far d c.g c.w r.done
  settle r (r.stopped || all.any fun p => !done.contains p.idx)
  if r.stopped then stopPartWay q r else standAt stop (all.map (·.idx)) done

/-- A vector load (R145 to R148) and its probe form (R240). With FAR the destination is the follower's, and need not be disjoint
from the leader's index group (DEDUCED: R146's rule is of one file, notes/assumptions/71.md). -/
def vectorLoad (i : Instr) (o : MOp) (mode : Addressing) (s : State) (stop : StopAfter := none) : Host.Outcome State Fault Refusal :=
  finishNext i (do
    auReads (vectorReads o mode)
    checkFar (farOf o)
    vectorOp (fun c => isDefined c.fmt && addressingOk o mode (if farOf o then none else some (Opd.of o.d c.g)) c)
      (fun c => [Opd.of o.d c.g]) (indexOpd o mode) fun c => do
        let s ← get
        let b := s.baseOf o.h o.a
        let q := { s.hart.req (covered := b.covered) with walks := o.nf == 1 }
        let msk := o.msk.toNat
        let active := (List.range c.vl).filter (s.hart.pending msk)
        let elems := active.map fun e => { idx := e, off := s.elemOffset o c mode e : Elem }
        let read (e : Nat) (t : Target) : Op Nat := do
          let v ← readTarget q t c.bytes (o.ro == 1)
          pure (v / 2 ^ c.bitInByte e % 2 ^ c.w)
        if o.nf = 1 then do
          probe q c.bytes (o.ro == 1) (farOf o) c o.d.toNat (← check (s.precheck q b c.bytes elems)) read (stop := stop) fun r partWay => do
            let residency (m : MReg) : MReg :=
              BitVec.ofNat 8192 (r.done.foldl (fun v d => putBits v d.1 1 (if r.gone.contains d.1 then 0 else 1)) m.toNat)
            modHart fun h => h.setM o.c.toNat (residency (h.getM o.c.toNat))
            if partWay then pure ()
            else do
              settleDest c (farOf o) o.d.toNat msk (o.mz == 1)
              modHart fun h => h.setM o.c.toNat (mapMask c (s.hart.selected msk) true (h.getM o.c.toNat)
                fun e => (h.getM o.c.toNat).getLsbD e)
        else do
          vectorAccess q b c.bytes (.load (o.ro == 1)) elems read (putDone (farOf o) o.d.toNat c.g c.w) stop
          settleDest c (farOf o) o.d.toNat msk (o.mz == 1)
        acquireIf o.ord o.scope) s

def execVld (o : MOp) (s : State) := vectorLoad (.vld o) o .unit s
def execVlds (o : MOp) (s : State) := vectorLoad (.vlds o) o .strided s
def execVldx (o : MOp) (s : State) := vectorLoad (.vldx o) o .indexed s

/-- The elements that share the byte of sub-byte element `e`; an element of at least a byte stands alone. -/
def Cfg.mates (c : Cfg) (e : Nat) : List Nat :=
  let n := 8 / c.w
  if c.w < 8 then (List.range n).map (e / n * n + ·) else [e]

/-- The bits of a sub-byte element's byte that its mates put there, with `f` the value of each. -/
def Cfg.byteOf (c : Cfg) (mates : List Nat) (f : Nat → Nat) : Byte :=
  BitVec.ofNat 8 (mates.foldl (fun v k => putBits v (c.bitInByte k) c.w (f k)) 0)

/-- Write element `e` of the elements that `active` names. Sub-byte elements change only their own bits, and those of one byte write it
as one, with the first of them (R146). -/
def storeElem (q : Req) (c : Cfg) (active : Nat → Bool) (data e : Nat) (t : Target) : Op Nat := do
  let mates := (c.mates e).filter active
  if 8 ≤ c.w then writeTarget q t (toBytes c.bytes (elemAt c.w data e))
  else if mates.head? == some e then
    writeTarget q t [c.byteOf mates (elemAt c.w data)] (mask := c.byteOf mates fun _ => 2 ^ c.w - 1)
  else pure ()
  pure 0

/-- The stores of a vector instruction: a release is preceded by every older access, and its own elements are released with it, also
when it stops part-way (R149). -/
def vectorStores (o : MOp) (q : Req) (b : Base) (n : Nat) (elems : List Elem) (act : Nat → Target → Op Nat)
    (stop : StopAfter := none) : Op Unit := do
  let releases := o.ord.getLsbD 1
  vectorAccess q b n .never elems
    (fun e t => do
      if releases then releaseOp o.scope.toNat else pure ()
      act e t)
    (fun done => if done.isEmpty && !elems.isEmpty then pure () else releaseIf o.ord o.scope) stop

/-- A vector store (R145 to R149). -/
def vectorStore (i : Instr) (o : MOp) (mode : Addressing) (s : State) (stop : StopAfter := none) : Host.Outcome State Fault Refusal :=
  finishNext i (do
    auReads (vectorReads o mode)
    checkFar (farOf o)
    vectorOp (fun c => isDefined c.fmt && addressingOk o mode none c) (fun c => if farOf o then [Opd.of o.c c.g] else [])
      (fun c => (if farOf o then [] else [Opd.of o.c c.g]) ++ indexOpd o mode c) fun c => do
        let s ← get
        let b := s.baseOf o.h o.a
        let q := s.hart.req (write := true) (covered := b.covered) (view := b.handle)
        let data := (s.hart.file (farOf o)).group o.c.toNat c.g
        let active (e : Nat) : Bool := decide (e < c.vl) && s.hart.pending o.msk.toNat e
        let elems := ((List.range c.vl).filter active).map fun e => { idx := e, off := s.elemOffset o c mode e : Elem }
        vectorStores o q b c.bytes elems (storeElem q c active data) stop) s

def execVst (o : MOp) (s : State) := vectorStore (.vst o) o .unit s
def execVsts (o : MOp) (s : State) := vectorStore (.vsts o) o .strided s
def execVstx (o : MOp) (s : State) := vectorStore (.vstx o) o .indexed s

/-! Scale and mask transfers (R150): byte j of the transfer is its element j. -/

/-- The elements of a transfer of `n` bytes. -/
def byteElems (h : Hart) (o : MOp) (n : Nat) : List Elem :=
  ((List.range n).filter fun j => !h.progressed j).map fun j => { idx := j, off := o.ofs.toInt + j }

/-- Block `j` of a scale group: its register and byte (R88). -/
def blockPlace (w r j : Nat) : Nat × Nat := (r + j / blocksOf w, j % blocksOf w)

def scaleLoad (o : MOp) (s : State) (stop : StopAfter := none) : Host.Outcome State Fault Refusal :=
  finishNext (.eld o) (do
    auReads (baseReads o.h o.a)
    let s ← get
    let c := s.cfg
    illegalIf !(isDefined c.fmt && c.w ≤ 8 && (Opd.of o.d c.g).ok 64)
    let b := s.baseOf o.h o.a
    let q := s.hart.req (covered := b.covered)
    let n := ceilDiv c.vl 32
    vectorAccess q b 1 (.load false) (byteElems s.hart o n) (fun _ t => readTarget q t 1 false) (stop := stop) fun done =>
      modHart fun h => { h with own := done.foldl (fun f d =>
        let (r, j) := blockPlace c.w o.d.toNat d.1
        f.setScale r (putBits (f.scaleReg r) (8 * j) 8 d.2)) h.own }
    modHart fun h => { h with own := (List.range c.g).foldl (fun f k =>
      f.setScale (o.d.toNat + k) (packElems 8 ((List.range (blocksOf c.w)).map fun j =>
        if k * blocksOf c.w + j < n then bitsAt (f.scaleReg (o.d.toNat + k)) (8 * j) 8 else 0))) h.own }
    acquireIf o.ord o.scope) s

def execEld (o : MOp) (s : State) := scaleLoad o s

def scaleStore (o : MOp) (s : State) (stop : StopAfter := none) : Host.Outcome State Fault Refusal :=
  finishNext (.est o) (do
    auReads (baseReads o.h o.a)
    let s ← get
    let c := s.cfg
    illegalIf !(isDefined c.fmt && c.w ≤ 8 && (Opd.of o.c c.g).ok 64)
    let b := s.baseOf o.h o.a
    let q := s.hart.req (write := true) (covered := b.covered) (view := b.handle)
    vectorStores o q b 1 (byteElems s.hart o (ceilDiv c.vl 32)) (stop := stop) fun j t => do
      let (r, k) := blockPlace c.w o.c.toNat j
      writeTarget q t (toBytes 1 (bitsAt (s.hart.own.scaleReg r) (8 * k) 8))
      pure 0) s

def execEst (o : MOp) (s : State) := scaleStore o s

def maskLoad (o : MOp) (s : State) (stop : StopAfter := none) : Host.Outcome State Fault Refusal :=
  finishNext (.mld o) (do
    auReads (baseReads o.h o.a)
    let s ← get
    let c := s.cfg
    illegalIf !(s.hart.maskDestOk o.d.toNat)
    let b := s.baseOf o.h o.a
    let q := s.hart.req (covered := b.covered)
    vectorAccess q b 1 (.load false) (byteElems s.hart o (ceilDiv c.vl 8)) (fun _ t => readTarget q t 1 false) (stop := stop) fun done =>
      modHart fun h => h.setM o.d.toNat (BitVec.ofNat 8192 (done.foldl (fun v d =>
        putBits v (8 * d.1) (min 8 (c.vl - 8 * d.1)) d.2) (h.getM o.d.toNat).toNat))
    modHart fun h => h.setM o.d.toNat (mapMask c (fun _ => true) false (h.getM o.d.toNat) fun e =>
      (h.getM o.d.toNat).getLsbD e)
    acquireIf o.ord o.scope) s

def execMld (o : MOp) (s : State) := maskLoad o s

def maskStore (o : MOp) (s : State) (stop : StopAfter := none) : Host.Outcome State Fault Refusal :=
  finishNext (.mst o) (do
    auReads (baseReads o.h o.a)
    let s ← get
    let c := s.cfg
    let b := s.baseOf o.h o.a
    let q := s.hart.req (write := true) (covered := b.covered) (view := b.handle)
    let bits := (s.hart.getM o.c.toNat).toNat % 2 ^ c.vl
    vectorStores o q b 1 (byteElems s.hart o (ceilDiv c.vl 8)) (stop := stop) fun j t => do
      writeTarget q t (toBytes 1 (bitsAt bits (8 * j) 8))
      pure 0) s

def execMst (o : MOp) (s : State) := maskStore o s

/-! Block gathers (R243, R244). -/

/-- Block, offset in it and table entry of an element. -/
structure BlockElem where
  k : Nat
  idx : Nat
  off : Int
  deriving DecidableEq, Repr

def State.blockElem (s : State) (o : MOp) (c : Cfg) (e : Nat) : BlockElem :=
  let n := 2 ^ (o.aux.toNat % 16)
  let b := e * c.w / 8
  let idx := s.hart.indexElem c (indexWidth o) o.b.toNat (s.hart.own.reg o.b.toNat) (b / n)
  { k := b / n, idx, off := o.ofs.toInt + ((idx * 2 ^ (o.aux.toNat / 16 + 6) + b % n : Nat) : Int) }

def blockGather (o : MOp) (s : State) (stop : StopAfter := none) : Host.Outcome State Fault Refusal :=
  finishNext (.vgathb o) (do
    auReads (o.c :: baseReads o.h o.a)
    vectorOp (fun c => isDefined c.fmt && 8 ≤ c.w &&
        decide (ceilDiv (c.vl * c.w / 8) (2 ^ (o.aux.toNat % 16)) ≤ 2048 / (indexWidth o)) &&
        (Opd.of o.d c.g).disjoint (Opd.of o.b 1))
      (fun c => [Opd.of o.d c.g]) (fun _ => [Opd.of o.b 1]) fun c => do
        let s ← get
        let b := s.baseOf o.h o.a
        let q := { s.hart.req (covered := b.covered) with walks := o.nf == 1 }
        let msk := o.msk.toNat
        let bound := (s.x o.c).toNat % 2 ^ 32
        let active := (List.range c.vl).filter (s.hart.pending msk)
        let out (e : Nat) : Bool := decide (bound ≤ (s.blockElem o c e).idx)
        let elem (e : Nat) : Elem := { idx := e, off := (s.blockElem o c e).off }
        let read (_ : Nat) (t : Target) : Op Nat := readTarget q t c.bytes (o.ro == 1)
        if o.nf = 1 then do
          let inside ← check (s.precheck q b c.bytes ((active.filter (!out ·)).map elem))
          let placed := active.map fun e => (inside.find? (·.idx == e)).getD { idx := e, va := 0, loc := .absent false }
          probe q c.bytes (o.ro == 1) false c o.d.toNat placed read (stop := stop) fun r partWay => do
            let cleared (m : MReg) : MReg := BitVec.ofNat 8192 (r.gone.foldl (fun v e => putBits v e 1 0) m.toNat)
            if partWay then modHart fun h => h.setM msk (cleared (h.getM msk))
            else do
              settleDest c false o.d.toNat msk (o.mz == 1)
              modHart fun h => h.setM msk (mapMask c (fun _ => true) false (cleared (h.getM msk)) fun e => (cleared (h.getM msk)).getLsbD e)
        else do
          match active.find? out with
          | some e => trap .indexBound (s.addrAt q.asid b (elem e).off) (word (s.blockElem o c e).k)
          | none => do
            vectorAccess q b c.bytes (.load (o.ro == 1)) (active.map elem) read (putDone false o.d.toNat c.g c.w) stop
            settleDest c false o.d.toNat msk (o.mz == 1)
        acquireIf o.ord o.scope) s

def execVgathb (o : MOp) (s : State) := blockGather o s

end Sys2Proof.Machine
end

