-- ==== Sys2Proof/Machine/VectorReduce.lean ====
section
/-!
DEFINITION. Reductions, scans and selection, OPC 0x45 (06:R118; 07:R136 to R140).
-/

namespace Sys2Proof.Machine

/-- Elements below VL that the mask selects, in ascending order. -/
def State.activeList (s : State) (c : Cfg) (msk : Nat) : List Nat := (List.range c.vl).filter (s.hart.selected msk)

/-- A register whose low `bits` hold a result; the rest is tail (R136). With VL = 0 only the tail is written (R93; notes/assumptions/65.md). -/
def lowResult (c : Cfg) (old bits v : Nat) : Nat :=
  (if c.vl = 0 then old else v) % 2 ^ bits + (if c.tailz then 0 else old / 2 ^ bits * 2 ^ bits)

/-- The flags of an instruction with VL = 0: none (R93, R117). -/
def Cfg.flags (c : Cfg) (fl : Flags) : Flags := if c.vl = 0 then 0 else fl

/-- A NaN as a computed result: the canonical one (R107). -/
def canonical (f : FpFmt) (bits : Nat) : Nat := if (f.value bits).isNan then f.nanCode else bits

/-- A reduction into a single register: `f` answers the result's bits, its width and its flags (R136). With no active element the result is
the start value (R118). -/
def reduce (i : Instr) (o : GOp) (cls : Nat → Bool) (f : State → Cfg → Nat → Nat → Nat × Nat × Flags) (s : State) :
    Host.Outcome State Fault Refusal :=
  finishNext i (vectorOp (fun c => cls c.fmt) (fun _ => [Opd.of o.d 1])
    (fun c => [Opd.of o.a c.g, Opd.of o.b 1]) fun c => do
      let s ← get
      let (v, bits, fl) := f s c (s.hart.own.group o.a.toNat c.g) (s.hart.own.reg o.b.toNat)
      setGroup o.d 1 (lowResult c (s.hart.own.reg o.d.toNat) bits v, c.flags fl)) s

/-- One addition of an ordered sum: the accumulator in FP32 (R118). -/
def addStep (rnd : Rnd) (acc : Nat) (v : Val) : Nat × Flags :=
  let (y, fl) := (fp32.value acc).add rnd.mode v
  let (bits, fl') := fp32.round rnd false y
  (bits, fl ||| fl')

/-- The ordered sum of the active elements (R118, R136); with none it is the start value, a NaN made canonical (R107). -/
def orderedSum (csr : Csrs) (mode : Mode) (start : Nat) (elems : List (Nat × Val)) : Nat × Flags :=
  if elems.isEmpty then (canonical fp32 start, 0) else elems.foldl (fun acc p =>
    let (bits, fl) := addStep (csr.rnd mode p.1) acc.1 p.2
    (bits, acc.2 ||| fl)) (start, 0)

def State.activeVals (s : State) (c : Cfg) (o : GOp) (grp : Nat) : List (Nat × Val) :=
  (s.activeList c o.msk.toNat).map fun e => (e, s.hart.own.elem c o.a.toNat grp e)

def execVredsumO (o : GOp) (s : State) : Host.Outcome State Fault Refusal :=
  reduce (.vredsumO o) o isFp (fun s c a b =>
    let (v, fl) := orderedSum s.hart.csr (s.hart.csr.modeOf o.fl.toNat) (b % 2 ^ 32) (s.activeVals c o a)
    (v, 32, fl)) s

/-- A part of an unordered sum: its value and the highest element index in it, none for the start value alone (R122). -/
structure Part where
  value : Val
  top : Option Nat
  deriving DecidableEq, Repr

/-- Combine parts in pairs that free values pick, until one is left (R137). -/
def combineParts (csr : Csrs) (mode : Mode) : Nat → List Part → Flags → Op (Option Part × Flags)
  | 0, parts, fl => pure (parts.head?, fl)
  | fuel + 1, parts, fl =>
    match parts with
    | [] => pure (none, fl)
    | [p] => pure (some p, fl)
    | _ => do
      let i := (← choose) % parts.length
      let rest := parts.eraseIdx i
      let j := (← choose) % rest.length
      let a := parts.getD i ⟨.zero, none⟩
      let b := rest.getD j ⟨.zero, none⟩
      let top := max (a.top.getD 0) (b.top.getD 0)
      let rnd := csr.rnd mode top
      let (y, f1) := a.value.add mode b.value
      let (bits, f2) := fp32.round rnd false y
      combineParts csr mode fuel (⟨fp32.value bits, some top⟩ :: rest.eraseIdx j) (fl ||| f1 ||| f2)

/-- The sum of the start value and the elements in some association; with no element it is the start value (R137). -/
def unorderedSum (csr : Csrs) (mode : Mode) (start : Nat) (elems : List (Nat × Val)) : Op (Nat × Flags) := do
  if elems.isEmpty then pure (canonical fp32 start, 0)
  else
    let parts := ⟨fp32.value start, none⟩ :: elems.map fun p => ⟨p.2, some p.1⟩
    let (p, fl) ← combineParts csr mode parts.length parts 0
    pure ((fp32.round { mode := .rne } false ((p.map (·.value)).getD .zero)).1, fl)

/-- The trap of a form whose result depends on timing, under DET (R100, R360). -/
def refuseDet (opc fn : Nat) (addr : Word := 0) : Op Unit := do
  trapIf (← get).hart.det .determinismViolation addr (word (opc * 256 + fn))

def execVredsumU (o : GOp) (s : State) : Host.Outcome State Fault Refusal :=
  finishNext (.vredsumU o) (do
    refuseDet 0x45 0x01
    vectorOp (fun c => isFp c.fmt) (fun _ => [Opd.of o.d 1]) (fun c => [Opd.of o.a c.g, Opd.of o.b 1]) fun c => do
      let s ← get
      let a := s.hart.own.group o.a.toNat c.g
      let (v, fl) ← unorderedSum s.hart.csr (s.hart.csr.modeOf o.fl.toNat) (s.hart.own.reg o.b.toNat % 2 ^ 32)
        (s.activeVals c o a)
      setGroup o.d 1 (lowResult c (s.hart.own.reg o.d.toNat) 32 v, fl)) s

/-- The integer value of a container under its format's signedness. -/
def intElem (c : Cfg) (grp e : Nat) : Int :=
  if isSignedInt c.fmt then toSigned c.w (elemAt c.w grp e) else (elemAt c.w grp e : Int)

def execVredsumi (o : GOp) (s : State) : Host.Outcome State Fault Refusal :=
  reduce (.vredsumi o) o isInt (fun s c a b =>
    let sum := (s.activeList c o.msk.toNat).foldl (fun acc e => acc + intElem c a e) ((b % 2 ^ 64 : Nat) : Int)
    (ofSigned 64 sum, 64, 0)) s

/-- VREDMAX and VREDMIN (R136). -/
def reduceMinmax (i : Instr) (o : GOp) (larger : Bool) (s : State) : Host.Outcome State Fault Refusal :=
  reduce i o (fun f => isInt f || isFp f) (fun s c a b =>
    if isInt c.fmt then
      let best := (s.activeList c o.msk.toNat).foldl
        (fun acc e => if larger then max acc (intElem c a e) else min acc (intElem c a e)) (intElem c b 0)
      (ofSigned c.w best, c.w, 0)
    else if !c.scl && (s.activeList c o.msk.toNat).isEmpty then (canonical (fpOf c.fmt) (elemAt c.w b 0), c.w, 0)
    else
      let (v, fl) := (s.activeVals c o a).foldl (fun acc p =>
        let (y, fl) := acc.1.minmax larger p.2
        (y, acc.2 ||| fl)) (s.hart.own.elem c o.b.toNat b 0, (0 : Flags))
      let rnd := s.hart.csr.rnd (Mode.ofCode (s.hart.csr.frm.toNat % 8)) 0
      let (bits, fl') := putFp c.fmt c.scl (s.hart.own.exponent o.d.toNat c.w 0) rnd false v
      (bits, c.w, fl ||| fl')) s

def execVredmax (o : GOp) (s : State) := reduceMinmax (.vredmax o) o true s
def execVredmin (o : GOp) (s : State) := reduceMinmax (.vredmin o) o false s

def reduceBits (i : Instr) (o : GOp) (f : Nat → Nat → Nat) (s : State) : Host.Outcome State Fault Refusal :=
  reduce i o isInt (fun s c a b =>
    ((s.activeList c o.msk.toNat).foldl (fun acc e => f acc (elemAt c.w a e)) (elemAt c.w b 0), c.w, 0)) s

def execVredand (o : GOp) (s : State) := reduceBits (.vredand o) o (fun a b => a &&& b) s
def execVredor (o : GOp) (s : State) := reduceBits (.vredor o) o (fun a b => a ||| b) s
def execVredxor (o : GOp) (s : State) := reduceBits (.vredxor o) o (fun a b => a ^^^ b) s

/-! Scans (R138). -/

/-- The destination group of a scan into `w'`-bit elements: at most 8 registers, apart from its sources. -/
def scanOk (c : Cfg) (o : GOp) (w' : Nat) : Bool :=
  let d := Opd.of o.d (c.groupOf w')
  c.groupOf w' ≤ 8 && d.disjoint (Opd.of o.a c.g) && d.disjoint (Opd.of o.b 1)

/-- Write the running combinations: `run` lists them by active element. -/
def writeScan (o : GOp) (c : Cfg) (w' : Nat) (run : List (Nat × Nat)) (fl : Flags) : Op Unit := do
  let s ← get
  let g := c.groupOf w'
  let d := s.hart.own.group o.d.toNat g
  let v := mapElems c w' (elemsOf g w') (s.hart.selected o.msk.toNat) (o.mz == 1) d fun e =>
    (((run.find? fun p => p.1 == e).map (·.2)).getD 0, 0)
  setGroup o.d g (v.1, fl)

/-- The accumulator after each active element, and the flags (R118). -/
def scanSum (csr : Csrs) (mode : Mode) : Nat → List (Nat × Val) → List (Nat × Nat) × Flags
  | _, [] => ([], 0)
  | acc, p :: rest =>
    let (bits, fl) := addStep (csr.rnd mode p.1) acc p.2
    let (l, fl') := scanSum csr mode bits rest
    ((p.1, bits) :: l, fl ||| fl')

def execVscanO (o : GOp) (s : State) : Host.Outcome State Fault Refusal :=
  finishNext (.vscanO o) (vectorOp (fun c => isFp c.fmt && scanOk c o 32) (fun c => [Opd.of o.d (c.groupOf 32)])
    (fun c => [Opd.of o.a c.g, Opd.of o.b 1]) fun c => do
      let s ← get
      let a := s.hart.own.group o.a.toNat c.g
      let (l, fl) := scanSum s.hart.csr (s.hart.csr.modeOf o.fl.toNat) (s.hart.own.reg o.b.toNat % 2 ^ 32) (s.activeVals c o a)
      writeScan o c 32 l fl) s

/-- Each element of an unordered scan is a sum of the start value and the active elements up to it, in some association
(R137, R138). -/
def scanUnordered (csr : Csrs) (mode : Mode) (start : Nat) (elems : List (Nat × Val)) :
    Nat → Op (List (Nat × Nat) × Flags)
  | 0 => pure ([], 0)
  | n + 1 => do
    let (l, fl) ← scanUnordered csr mode start elems n
    let (bits, fl') ← unorderedSum csr mode start (elems.take (n + 1))
    pure (l ++ [((elems.getD n (0, .zero)).1, bits)], fl ||| fl')

def execVscanU (o : GOp) (s : State) : Host.Outcome State Fault Refusal :=
  finishNext (.vscanU o) (do
    refuseDet 0x45 0x09
    vectorOp (fun c => isFp c.fmt && scanOk c o 32) (fun c => [Opd.of o.d (c.groupOf 32)])
      (fun c => [Opd.of o.a c.g, Opd.of o.b 1]) fun c => do
        let s ← get
        let elems := s.activeVals c o (s.hart.own.group o.a.toNat c.g)
        let (l, fl) ← scanUnordered s.hart.csr (s.hart.csr.modeOf o.fl.toNat) (s.hart.own.reg o.b.toNat % 2 ^ 32) elems
          elems.length
        writeScan o c 32 l fl) s

/-- The running sums of containers, modulo 2^w (R138). -/
def scanInts (w grp : Nat) : Nat → List Nat → List (Nat × Nat)
  | _, [] => []
  | acc, e :: rest =>
    let acc := (acc + elemAt w grp e) % 2 ^ w
    (e, acc) :: scanInts w grp acc rest

def execVscani (o : GOp) (s : State) : Host.Outcome State Fault Refusal :=
  finishNext (.vscani o) (vectorOp (fun c => isInt c.fmt && scanOk c o c.w) (fun c => [Opd.of o.d c.g])
    (fun c => [Opd.of o.a c.g, Opd.of o.b 1]) fun c => do
      let s ← get
      let a := s.hart.own.group o.a.toNat c.g
      writeScan o c c.w (scanInts c.w a (elemAt c.w (s.hart.own.reg o.b.toNat) 0) (s.activeList c o.msk.toNat)) 0) s

/-! Selection (R139, R140). -/

/-- An element ranks above another of a higher index: NaNs rank lowest, ties go to the lower index. -/
def ranksBelow (c : Cfg) (a b : Val) : Bool := if isFp c.fmt then (a.isNan && !b.isNan) || a.lt b else a.lt b

/-- The element that ranks highest; the list is in ascending index. -/
def bestOf (c : Cfg) : List (Nat × Val) → Option (Nat × Val)
  | [] => none
  | p :: rest =>
    match bestOf c rest with
    | none => some p
    | some q => if ranksBelow c p.2 q.2 then some q else some p

/-- The `k` highest elements in descending rank. -/
def topK (c : Cfg) : Nat → List (Nat × Val) → List Nat
  | 0, _ => []
  | k + 1, l =>
    match bestOf c l with
    | none => []
    | some p => p.1 :: topK c k (l.filter fun q => q.1 != p.1)

/-- The padding value: the minimum of an integer format or the canonical NaN (R139). -/
def padElem (fmt : Nat) : Nat :=
  if isFp fmt then (fpOf fmt).nanCode else ofSigned (container fmt) (intMin (container fmt) (isSignedInt fmt))

/-- A group whose first elements are listed; the rest is tail from there (R139). With VL = 0 only the tail is written (R93;
notes/assumptions/23.md). -/
def headResult (c : Cfg) (w total old : Nat) (l : List Nat) : Nat :=
  packElems w ((List.range total).map fun e =>
    if e < l.length then (if c.vl = 0 then elemAt w old e else l.getD e 0) else if c.tailz then 0 else elemAt w old e)

/-- VTOPK (R139). -/
def execVtopk (o : GOp) (s : State) : Host.Outcome State Fault Refusal :=
  let k := o.imm.toNat
  finishNext (.vtopk o) (vectorOp (fun c => (isInt c.fmt || isFp c.fmt) && 1 ≤ k && k ≤ 64 && k ≤ c.vlmax &&
      (Opd.of o.d c.g).disjoint (Opd.of o.c 1) && (Opd.of o.d c.g).disjoint (Opd.of o.a c.g) &&
      (Opd.of o.c 1).disjoint (Opd.of o.a c.g))
    (fun c => [Opd.of o.d c.g, Opd.of o.c 1]) (fun c => [Opd.of o.a c.g]) fun c => do
      let s ← get
      let own := s.hart.own
      let a := own.group o.a.toNat c.g
      let vals := s.activeVals c o a
      let picked := topK c k vals
      let pad := List.replicate (k - picked.length)
      setGroup o.d c.g (headResult c c.w c.vlmax (own.group o.d.toNat c.g) (picked.map (elemAt c.w a) ++ pad (padElem c.fmt)),
        nvOf (vals.map (·.2)))
      setGroup o.c 1 (headResult c 32 64 (own.reg o.c.toNat) (picked ++ pad 0xFFFFFFFF), 0)) s

/-- VAMAX (R140). MZ has nothing to act on: the result is no element (R92). -/
def execVamax (o : GOp) (s : State) : Host.Outcome State Fault Refusal :=
  finishNext (.vamax o) (vectorOp (fun c => isFp c.fmt) (fun _ => [Opd.of o.d 1]) (fun c => [Opd.of o.a c.g]) fun c => do
    let s ← get
    let vals := (s.activeVals c o (s.hart.own.group o.a.toNat c.g)).map (·.2)
    let top := vals.foldl (fun acc v => if acc.lt v.abs then v.abs else acc) Val.zero
    let (bits, fl) := fp32.round { mode := .rne } false top
    setGroup o.d 1 (lowResult c (s.hart.own.reg o.d.toNat) 32 bits, fl ||| Flags.when_ (vals.any (·.isNan)) Flags.nv)) s

end Sys2Proof.Machine
end

