-- ==== Sys2Proof/Machine/Atomics.lean ====
section
/-!
DEFINITION. Atomics, vector atomics and fences, OPC 0xA0, 0xA1 and 0xC9 (13:R242, R245 to R256).
-/

namespace Sys2Proof.Machine

/-- The operations by the FN codes of OPC 0xA0 (R247). -/
inductive Amo where
  | swap | cas | add | and | or | xor | min | max | minu | maxu | fadd | fmax | incw | addb
  deriving DecidableEq, Repr

def Amo.ofCode : Nat → Option Amo
  | 0x00 => some .swap
  | 0x01 => some .cas
  | 0x02 => some .add
  | 0x03 => some .and
  | 0x04 => some .or
  | 0x05 => some .xor
  | 0x06 => some .min
  | 0x07 => some .max
  | 0x08 => some .minu
  | 0x09 => some .maxu
  | 0x0A => some .fadd
  | 0x0B => some .fmax
  | 0x0C => some .incw
  | 0x0D => some .addb
  | _ => none

def Amo.isFp : Amo → Bool
  | .fadd | .fmax => true
  | _ => false

/-- The value written, if any, and the flags, from the old value `o` and the operands `b` and `c` of `w` bits (R247, R250). -/
def Amo.apply (op : Amo) (w o b c : Nat) : Option Nat × Flags :=
  match op with
  | .swap => (some c, 0)
  | .cas => (if o = b then some c else none, 0)
  | .add => (some ((o + c) % 2 ^ w), 0)
  | .and => (some (o &&& c), 0)
  | .or => (some (o ||| c), 0)
  | .xor => (some (o ^^^ c), 0)
  | .min => (some (if toSigned w c < toSigned w o then c else o), 0)
  | .max => (some (if toSigned w o < toSigned w c then c else o), 0)
  | .minu => (some (Nat.min o c), 0)
  | .maxu => (some (Nat.max o c), 0)
  | .fadd =>
    let (v, fl) := addStep { mode := .rne } o (fp32.value c)
    (some v, fl)
  | .fmax =>
    let (y, fl) := (fp32.value o).minmax true (fp32.value c)
    (some (fp32.round { mode := .rne } false y).1, fl)
  | .incw => (some (if c ≤ o then 0 else o + 1), 0)
  | .addb => (if o + b ≤ c then some (o + b) else none, 0)

/-- An atomic at a target: the pending stores of its bytes perform first, then it reads and writes as one (R249, R260). A
write to a read-duplicated page invalidates the replicas first (R386). -/
def State.atomicAt (s : State) (q : Req) (t : Target) (n : Nat) (f : Nat → Option Nat × Flags) : State × Nat × Flags :=
  let s := s.atHome q t n
  let old := s.memNat t.pa n
  let (new, fl) := f old
  (new.elim s fun v => (s.unowned t.pa (toBytes n v)).foldl (fun s r => s.setMemBytes r.1 r.2) s, old, fl)

def atomicAt (q : Req) (t : Target) (n : Nat) (f : Nat → Option Nat × Flags) : Op Nat := do
  let (s, old, fl) := (← get).atomicAt q t n f
  set s
  orFlags fl
  markActed
  pure old

/-- The checks of R246, steps 2 to 6, on a location of `n` bytes. -/
def checkAtomic (q : Req) (b : Base) (o : Int) (n : Nat) : Op Target := do
  let s ← get
  match ← check (s.precheck q b n [{ idx := 0, off := o }]) with
  | [p] =>
    match p.loc with
    | .absent bad => pageFault q 0 [{ va := p.va, bad }] true
    | .at_ t => do
      holdFor q [t] n
      settleTarget q t n
      trapIf ((← get).poisonIn q.place t.pa t.pa n) .poisonedData p.va
      pure t
  | _ => illegal

/-- A scalar atomic (R245 to R251): release, the atomic, and the old value into x[D]. -/
def scalarAtomic (i : Instr) (o : MOp) (fn : Nat) (op : Amo) (s : State) : Host.Outcome State Fault Refusal :=
  finishNext i (do
    auReads (baseReads o.h o.a)
    let s ← get
    let b := s.baseOf o.h o.a
    let q := s.hart.req (write := true) (atomic := true) (covered := b.covered)
    if op = .fadd then refuseDet 0xA0 fn (s.addrAt q.asid b o.ofs.toInt) else pure ()
    let n := if o.aux.getLsbD 0 then 8 else 4
    let t ← checkAtomic q b o.ofs.toInt n
    releaseIf o.ord o.scope
    let w := 8 * n
    let old ← atomicAt q t n fun v => op.apply w v ((s.x o.b).toNat % 2 ^ w) ((s.x o.c).toNat % 2 ^ w)
    acquireIf o.ord o.scope
    setX o.d (signExtended n old)) s

def execAmoswap (o : MOp) (s : State) := scalarAtomic (.amoswap o) o 0x00 .swap s
def execAmocas (o : MOp) (s : State) := scalarAtomic (.amocas o) o 0x01 .cas s
def execAmoadd (o : MOp) (s : State) := scalarAtomic (.amoadd o) o 0x02 .add s
def execAmoand (o : MOp) (s : State) := scalarAtomic (.amoand o) o 0x03 .and s
def execAmoor (o : MOp) (s : State) := scalarAtomic (.amoor o) o 0x04 .or s
def execAmoxor (o : MOp) (s : State) := scalarAtomic (.amoxor o) o 0x05 .xor s
def execAmomin (o : MOp) (s : State) := scalarAtomic (.amomin o) o 0x06 .min s
def execAmomax (o : MOp) (s : State) := scalarAtomic (.amomax o) o 0x07 .max s
def execAmominu (o : MOp) (s : State) := scalarAtomic (.amominu o) o 0x08 .minu s
def execAmomaxu (o : MOp) (s : State) := scalarAtomic (.amomaxu o) o 0x09 .maxu s
def execAmofadd (o : MOp) (s : State) := scalarAtomic (.amofadd o) o 0x0A .fadd s
def execAmofmax (o : MOp) (s : State) := scalarAtomic (.amofmax o) o 0x0B .fmax s
def execAmoincw (o : MOp) (s : State) := scalarAtomic (.amoincw o) o 0x0C .incw s
def execAmoaddb (o : MOp) (s : State) := scalarAtomic (.amoaddb o) o 0x0D .addb s

/-- The word formats of the vector atomics (R252, R253). -/
def isAtomicInt (fmt : Nat) : Bool := 4 ≤ fmt && fmt ≤ 7

/-- The offset of VAMO's element `e` (R252). -/
def State.vamoOffset (s : State) (o : MOp) (c : Cfg) (e : Nat) : Int :=
  o.ofs.toInt + ((s.hart.indexElem c (indexWidth o) o.b.toNat (s.hart.own.group o.b.toNat (indexGroup c (indexWidth o))) e *
    2 ^ (o.aux.toNat / 32 % 4) : Nat) : Int)

/-- The FP add under DET is refused at issue, with the address of the lowest active element (R252). -/
def refuseVamo (o : MOp) : Op Unit := do
  let s ← get
  let c := s.cfg
  let b := s.baseOf o.h o.a
  let first := (List.range c.vl).find? (s.hart.pending o.msk.toNat)
  refuseDet 0xA1 0x00 ((first.map fun e => s.addrAt s.hart.accessAsid b (s.vamoOffset o c e)).getD 0)

/-- VAMO: one atomic per active element, in ascending order (R252). An index that a stream supplies is known once its strip has been
popped. -/
def vectorAtomic (o : MOp) (s : State) (stop : StopAfter := none) : Host.Outcome State Fault Refusal :=
  let op := (Amo.ofCode (o.aux.toNat % 32)).getD .swap
  finishNext (.vamo o) (do
    auReads (baseReads o.h o.a)
    let refuse : Op Unit := if op = .fadd then refuseVamo o else pure ()
    if s.hart.streams? (Opd.of o.b 1) then pure () else refuse
    vectorOp (fun c => (if op.isFp then c.fmt == 0x0A else isAtomicInt c.fmt) && c.groupOf (indexWidth o) ≤ 8 &&
        (Opd.of o.d c.g).disjoint (Opd.of o.b (indexGroup c (indexWidth o))) && (Opd.of o.d c.g).disjoint (Opd.of o.c c.g))
      (fun c => [Opd.of o.d c.g]) (fun c => [Opd.of o.b (indexGroup c (indexWidth o)), Opd.of o.c c.g]) fun c => do
        refuse
        let s ← get
        let b := s.baseOf o.h o.a
        let q := s.hart.req (write := true) (atomic := true) (covered := b.covered)
        let active := (List.range c.vl).filter (s.hart.pending o.msk.toNat)
        let data := s.hart.own.group o.c.toNat c.g
        let prior := s.hart.own.group o.d.toNat c.g
        let _ ← check (s.precheck q b c.bytes (active.map fun e => { idx := e, off := s.vamoOffset o c e }))
        releaseIf o.ord o.scope
        vectorAccess q b c.bytes .atomic (active.map fun e => { idx := e, off := s.vamoOffset o c e }) (fun e t =>
          let x := elemAt c.w data e
          let y := elemAt c.w prior e
          atomicAt q t c.bytes fun v => if op = .addb then op.apply c.w v x y else op.apply c.w v y x)
          (putDone false o.d.toNat c.g c.w) stop
        settleDest c false o.d.toNat o.msk.toNat (o.mz == 1)
        acquireIf o.ord o.scope) s

def execVamo (o : MOp) (s : State) := vectorAtomic o s

/-- The values that VFAS hands out: the old value plus the counts of the active elements before (R253). -/
def fasValues (w data : Nat) : Nat → List Nat → List (Nat × Nat) × Nat
  | acc, [] => ([], acc % 2 ^ w)
  | acc, e :: rest =>
    let (l, total) := fasValues w data (acc + elemAt w data e) rest
    ((e, acc % 2 ^ w) :: l, total)

def execVfas (o : MOp) (s : State) : Host.Outcome State Fault Refusal :=
  finishNext (.vfas o) (do
    auReads (baseReads o.h o.a)
    vectorOp (fun c => isAtomicInt c.fmt) (fun c => [Opd.of o.d c.g]) (fun c => [Opd.of o.c c.g]) fun c => do
      let s ← get
      let b := s.baseOf o.h o.a
      let q := s.hart.req (write := true) (atomic := true) (covered := b.covered)
      let active := (List.range c.vl).filter (s.hart.selected o.msk.toNat)
      if !active.isEmpty then
        let t ← checkAtomic q b o.ofs.toInt c.bytes
        releaseIf o.ord o.scope
        let data := s.hart.own.group o.c.toNat c.g
        let old ← atomicAt q t c.bytes fun v => (some (fasValues c.w data v active).2, 0)
        putDone false o.d.toNat c.g c.w (fasValues c.w data old active).1
        acquireIf o.ord o.scope
      settleDest c false o.d.toNat o.msk.toNat (o.mz == 1)) s

/-! Fences (R242, R254 to R256). -/

/-- FENCE waits for the hart's engine commands if PRED names them, and for its stores; with loads in PRED its later stores and
commands follow what it can have read (R255, R261). -/
def execFence (o : GOp) (s : State) : Host.Outcome State Fault Refusal :=
  let scope := o.imm.toNat / 256 % 8
  finishNext (.fence o) (do
    let s ← get
    if o.imm.getLsbD 2 && s.commandPending s.hart.place then wait
    else do
      if o.imm.getLsbD 1 then do
        releaseOp scope
        if 3 ≤ scope then markActed else pure ()
      else pure ()
      if o.imm.getLsbD 0 then acquireOp scope else pure ()) s

/-- The core's copies on the read-only path are dropped (R242). -/
def State.dropReadOnly (s : State) (q : Place) : State :=
  s.discardReadOnly fun l => l.die == q.die && l.core == q.core

/-- A new floor for the read-only loads of the hart at a place: the core's copies are dropped, and what the hart holds is older than it (R241,
R242). -/
def State.raiseFloor (s : State) (q : Place) : State :=
  { s.dropReadOnly q with pend := s.pend.map fun p => if p.held && p.place == q then { p with floored := true } else p }

def fenceRo (i : Instr) (s : State) : Host.Outcome State Fault Refusal :=
  finishNext i (modify fun s => s.raiseFloor s.hart.place) s

def execFenceRoHart (s : State) := fenceRo .fenceRoHart s
def execFenceRoCore (s : State) := fenceRo .fenceRoCore s
def execFenceRoPair (s : State) := fenceRo .fenceRoPair s
def execFenceRoDie (s : State) := fenceRo .fenceRoDie s
def execFenceRoPkg (s : State) := fenceRo .fenceRoPkg s
def execFenceRoSys (s : State) := fenceRo .fenceRoSys s

/-- The running hart's loop buffer and its core's fetch cache are emptied (R256). -/
def State.dropFetched (s : State) : State :=
  let q := s.hart.place
  State.discardFetched { s with hart := { s.hart with loop := none } } fun l => l.die == q.die && l.core == q.core

/-- FENCE.I: the hart's older stores perform at core scope first (R256). -/
def execFenceI (s : State) : Host.Outcome State Fault Refusal :=
  finishNext .fenceI (do
    releaseOp 1
    modify fun s => s.dropFetched) s

end Sys2Proof.Machine
end

