-- ==== Sys2Proof/Machine/Rings.lean ====
section
/-!
DEFINITION. Ring objects and the ring instructions, OPC 0xB1 (16:R294 to R297, R301).
-/

namespace Sys2Proof.Machine

/-- A ring's header (R294). -/
structure Ring where
  base : Word
  slots : Nat
  ssize : Nat
  rptr : BitVec 32
  wptr : BitVec 32
  cptr : BitVec 32
  deriving DecidableEq, Repr

/-- The header of the 64 bytes `v`. -/
def ringOf (v : Nat) : Ring :=
  { base := word (bitsAt v 0 64), ssize := bitsAt v 64 32, slots := bitsAt v 96 16
    wptr := BitVec.ofNat 32 (bitsAt v 128 32), rptr := BitVec.ofNat 32 (bitsAt v 160 32)
    cptr := BitVec.ofNat 32 (bitsAt v 192 32) }

def Ring.bits (r : Ring) : Nat :=
  r.base.toNat + 2 ^ 64 * (r.ssize % 2 ^ 32) + 2 ^ 96 * (r.slots % 2 ^ 16) + 2 ^ 128 * r.wptr.toNat + 2 ^ 160 * r.rptr.toNat +
    2 ^ 192 * r.cptr.toNat

/-- SLOTS and SSIZE as R294 allows them. -/
def ringGeometryOk (slots ssize : Nat) : Bool :=
  1 ≤ slots && slots ≤ 4096 && slots &&& (slots - 1) == 0 && ssize % 128 == 0 && 128 ≤ ssize && ssize ≤ 16777088

/-- The checks of a header (R294). -/
def Ring.ok (r : Ring) (v : Nat) : Bool :=
  ringGeometryOk r.slots r.ssize && bitsAt v 112 16 == 0 && bitsAt v 224 288 == 0 &&
  (r.cptr - r.rptr).toNat ≤ r.slots && (r.wptr - r.rptr).toNat ≤ (r.cptr - r.rptr).toNat

def Ring.slotOf (r : Ring) (p : BitVec 32) : Nat := p.toNat % r.slots

/-- The address of the state word of a count (R294). -/
def Ring.stateAt (r : Ring) (ring : Word) (p : BitVec 32) : Word := ring + word (0x40 + 8 * r.slotOf p)

/-- The address of a count's slot buffer. -/
def Ring.bufferAt (r : Ring) (p : BitVec 32) : Word := r.base + word (r.slotOf p * r.ssize)

def stateFull (v : Nat) : Bool := v.testBit 63

/-- A state word (R295). -/
def stateWord (failure : Option Cause) (bytes : Nat) (seq : BitVec 32) : Nat :=
  2 ^ 63 + failure.elim 0 (fun c => 2 ^ 62 + c.code * 2 ^ 56) + min bytes 0xFFFFFF * 2 ^ 32 + seq.toNat

/-- A part of an object that a home slice serves, checked: `n` bytes aligned to `n`, in a translated page of ordinary class, another
class being refused by a fresh walk (R230); where it is read, they are not poisoned (R76, R294, R297). -/
def ringTarget (q : Req) (a : Word) (n : Nat) (reads : Bool := true) : Op Target := do
  trapIf (decide (2 ^ 56 ≤ a.toNat)) .protection a
  trapIf (a.toNat % n != 0) .misalignedAccess a
  trapIf (regionOf q.place.die a != .paged) .protection a
  let s ← get
  let (_, t) ← present q (s.checkAccess { q with only := [0] } (.plain a) 0 n)
  modify fun s => s.touch q t
  trapIf (reads && (← get).poisonIn q.place t.pa t.pa n) .poisonedData a
  pure t

/-- Bytes at a home slice: the pending stores to them that the hart sees perform first (R260). -/
def sliceRead (q : Req) (t : Target) (n : Nat) : Op Nat := do
  modify fun s => (s.touch q t).settle q t.pa n
  pure ((← get).memNat t.pa n)

/-- A write at a home slice, to every agent at once. -/
def sliceWrite (q : Req) (t : Target) (n v : Nat) : Op Unit :=
  modify fun s => s.putHome q t (toBytes n v)

/-- A part of a ring object that an instruction reads, and writes where its request writes: the permissions for both (R76, R294, R297). -/
def ringRead (q : Req) (a : Word) (n : Nat) : Op Target := do
  let t ← ringTarget q a n
  let _ ← ringTarget { q with write := false, atomic := false } a n
  pure t

/-- Read and check a ring's header (R294). -/
def ringHeader (q : Req) (ring : Word) : Op (Ring × Target) := do
  let t ← ringRead q ring 64
  let v ← sliceRead q t 64
  let r := ringOf v
  trapIf (!(r.ok v)) .ringMisuse ring 2
  pure (r, t)

def execRinit (o : GOp) (s : State) : Host.Outcome State Fault Refusal :=
  finishNext (.rinit o) (do
    auReads [o.a, o.b, o.c]
    let s ← get
    let q := s.hart.req (write := true)
    let ring := s.x o.a
    let t ← ringTarget q ring 64 false
    trapIf ((s.x o.b).toNat % 128 != 0) .misalignedAccess (s.x o.b)
    let slots := bitsAt (s.x o.c).toNat 32 16
    let ssize := bitsAt (s.x o.c).toNat 0 32
    trapIf (!(ringGeometryOk slots ssize && bitsAt (s.x o.c).toNat 48 16 == 0)) .ringMisuse ring 1
    let states ← (List.range slots).mapM fun k => ringTarget q (ring + word (0x40 + 8 * k)) 8 false
    let r : Ring := { base := s.x o.b, slots, ssize, rptr := 0, wptr := 0, cptr := 0 }
    writeTarget q t (toBytes 64 r.bits)
    states.forM fun t => writeTarget q t (toBytes 8 0)) s

/-- Raise a late failure of the hart that a filled slot carries; it is raised once (R286). -/
def raiseLate (slot : Word) (state : Nat) : Op Unit := do
  let h := (← get).hart
  let carried (l : Late) : Bool := l.seq == BitVec.ofNat 32 state &&
    if l.restored then state.testBit 62 && bitsAt state 56 6 == l.cause.code else l.slot == some slot
  match h.lates.find? carried with
  | some l => do
    modHart fun h => { h with lates := h.lates.erase l }
    trap l.cause l.address (l.seq.setWidth 64)
  | none => pure ()

def execRawait (o : GOp) (s : State) : Host.Outcome State Fault Refusal :=
  finishNext (.rawait o) (do
    let promised := o.fl.getLsbD 0
    auReads (o.a :: if promised then [o.b] else [])
    let s ← get
    let q := s.hart.req
    let ring := s.x o.a
    let (r, _) ← ringHeader q ring
    let k := o.imm.toNat % 4096
    trapIf (decide (r.slots ≤ k)) .ringMisuse ring 3
    let count := r.rptr + BitVec.ofNat 32 k
    let slot := r.stateAt ring count
    let t ← ringTarget q slot 8
    let v ← sliceRead q t 8
    if stateFull v then do
      raiseLate slot v
      setX o.d (r.bufferAt count)
    else do
      let s ← get
      trapIf (promised && decide (s.x o.b < s.cycle)) .missedPromise slot (s.x o.b)
      wait) s

def execRrel (o : GOp) (s : State) : Host.Outcome State Fault Refusal :=
  finishNext (.rrel o) (do
    auReads [o.a]
    let s ← get
    let q := s.hart.req (write := true)
    let ring := s.x o.a
    let (r, t) ← ringHeader q ring
    let n := o.imm.toNat % 8192
    trapIf (decide (r.slots < n)) .ringMisuse ring 6
    let states ← (List.range n).mapM fun k => ringRead q (r.stateAt ring (r.rptr + BitVec.ofNat 32 k)) 8
    let full ← states.mapM fun t => do return stateFull (← sliceRead q t 8)
    trapIf (full.any (!·)) .ringMisuse ring 6
    releaseOp 4
    states.forM fun t => sliceWrite q t 8 0
    sliceWrite q t 64 { r with rptr := r.rptr + BitVec.ofNat 32 n }.bits
    markActed) s

def execRpeek (o : GOp) (s : State) : Host.Outcome State Fault Refusal :=
  finishNext (.rpeek o) (do
    auReads [o.a]
    let s ← get
    let q := s.hart.req
    let ring := s.x o.a
    let (r, _) ← ringHeader q ring
    let k := o.imm.toNat % 4096
    trapIf (decide (r.slots ≤ k)) .ringMisuse ring 3
    let t ← ringTarget q (r.stateAt ring (r.rptr + BitVec.ofNat 32 k)) 8
    let v ← sliceRead q t 8
    setX o.d (word v)) s

/-- Claim a slot at push (R296): `need` are the bytes that the command writes into its slot's buffer, if it does. The claim
count, the header and the buffer's address. -/
def claimSlot (ring : Word) (need : Option Nat) : Op (BitVec 32 × Ring × Target) := do
  let s ← get
  let q := s.hart.req (write := true) (atomic := true)
  let (r, t) ← ringHeader q ring
  trapIf (need.elim false fun n => decide (r.ssize < n)) .ringMisuse ring 5
  trapIf ((r.cptr - r.rptr).toNat == r.slots) .ringMisuse ring 4
  pure (r.cptr, r, t)

/-- CPTR moves past the claimed slot. -/
def commitClaim (c : BitVec 32 × Ring × Target) : Op Unit := do
  let q := (← get).hart.req (write := true) (atomic := true)
  sliceWrite q c.2.2 64 { c.2.1 with cptr := c.2.1.cptr + 1 }.bits

/-- WPTR after the run of filled slots that follows it (R296). -/
def advanceWptr (full : BitVec 32 → Bool) (cptr : BitVec 32) : Nat → BitVec 32 → BitVec 32
  | 0, w => w
  | fuel + 1, w => if w ≠ cptr ∧ full w then advanceWptr full cptr fuel (w + 1) else w

end Sys2Proof.Machine
end

