-- ==== Sys2Proof/Machine/Barriers.lean ====
section
/-!
DEFINITION. Barriers and watermarks, OPC 0xC8 FN 0x03 to 0x07 (10:R201 to R205).
-/

namespace Sys2Proof.Machine

/-- The least phase of the members. -/
def Barrier.minPhase (b : Barrier) : Option Word :=
  match b.members with
  | [] => none
  | m :: rest => some (rest.foldl (fun a m => if m.phase < a then m.phase else a) m.phase)

/-- The 32 bytes of a barrier (R201). -/
def Barrier.image (b : Barrier) (minPhase : Word) (active : Bool) : Nat :=
  b.count % 2 ^ 32 + 2 ^ 32 * (b.joins % 2 ^ 32) + 2 ^ 64 * (b.members.length % 2 ^ 32) + 2 ^ 96 * (b.owner % 2 ^ 32) +
    2 ^ 128 * minPhase.toNat + if active then 2 ^ 192 else 0

def State.barrier? (s : State) (pa : Nat) : Option Barrier := s.barriers.find? (·.pa == pa)

/-- Hold an active barrier and keep its live image. -/
def State.putBarrier (s : State) (b : Barrier) : State :=
  let s := { s with barriers := b :: s.barriers.filter (·.pa != b.pa) }
  s.putObject b.pa (toBytes 32 (b.image (b.minPhase.getD 0) true))

/-- The membership is the task's: of a task without a graph, its hart slot's. -/
def BarMember.is (m : BarMember) (h : Hart) : Bool :=
  match h.task.ref with
  | some r => m.task == some r
  | none => m.task.isNone && m.place == h.place

/-- Remove a member; the last one deactivates the barrier, and what MINPHASE is left at is a choice (R201, R203). -/
def State.removeMember (s : State) (b : Barrier) (h : Hart) : State :=
  let b := { b with members := b.members.filter fun m => !m.is h }
  if b.members.isEmpty then
    let (s, c) := s.popChoice
    let s := { s with barriers := s.barriers.filter (·.pa != b.pa) }
    s.putObject b.pa (toBytes 32 (b.image (word c) false))
  else s.putBarrier b

/-- Leave every barrier of a hart (R200). -/
def State.leaveBarriers (s : State) (h : Hart) : State :=
  (s.barriers.filter fun b => b.members.any (·.is h)).foldl (fun s b => s.removeMember b h) s

/-- The request and the checks of a barrier instruction on x[A] (R202). -/
def barrierTarget (a : Word) : Op Target := do
  let q := (← get).hart.req (write := true)
  ringTarget q a 32 false

def execBarj (o : GOp) (s : State) : Host.Outcome State Fault Refusal :=
  finishNext (.barj o) (do
    auReads [o.a, o.b]
    let h := (← get).hart
    let a := h.getX o.a
    let t ← barrierTarget a
    let count := (h.getX o.b).toNat % 2 ^ 32
    let graph := h.task.ref.map (·.graph)
    let node := h.csr.nodeid.toNat
    let phase := h.csr.stripn
    let me : BarMember := { place := h.place, task := h.task.ref, address := a, phase }
    let old := (← get).barrier? t.pa
    let stranger (b : Barrier) := b.count != 0 && (b.count != count || b.graph != graph || b.owner != node)
    illegalIf (old.elim false (fun b => b.members.any (·.is h) || 256 ≤ b.members.length || stranger b) ||
      4 ≤ h.bars.length)
    let b : Barrier := old.getD { asid := h.accessAsid, address := a, pa := t.pa, joins := 0, count, owner := node, graph, members := [] }
    modify fun s => ((s.settleAll t.pa 32).markWrite t.pa 32 false).putBarrier
      { b with members := me :: b.members, joins := b.joins + 1 }
    modHart fun h => { h with bars := h.bars ++ [(a, phase)] }) s

/-- The active barrier at an address that the hart is a member of, and the address at which it joined (R203). -/
def memberOf (a : Word) : Op (Barrier × Word) := do
  let t ← barrierTarget a
  let s ← get
  match (s.barrier? t.pa).bind fun b => (b.members.find? (·.is s.hart)).map fun m => (b, m.address) with
  | some p => pure p
  | none => illegal

def execBara (o : GOp) (s : State) : Host.Outcome State Fault Refusal :=
  finishNext (.bara o) (do
    auReads [o.a]
    let a := (← get).x o.a
    let (b, joined) ← memberOf a
    let scope := o.fl.toNat % 8
    releaseOp scope
    if 3 ≤ scope then markActed else pure ()
    let h := (← get).hart
    modify fun s => (s.settle s.hart.req b.pa 32).putBarrier { b with members := b.members.map fun m => if m.is h then { m with phase := h.csr.stripn } else m }
    modHart fun h => { h with bars := h.bars.map fun p => if p.1 == joined then (joined, h.csr.stripn) else p }) s

/-- The node of a graph launch. -/
def State.node? (s : State) (g n : Nat) : Option Node := (s.graphs.find? (·.id == g)).bind (·.nodes[n]?)

/-- TILES of a record (R190). -/
def NodeRec.tiles (r : NodeRec) : Nat := r.ctrl.toNat % 2 ^ 32

/-- A barrier that can never fill (R204). -/
def State.orphaned (s : State) (b : Barrier) : Bool :=
  match b.graph.bind fun g => s.node? g b.owner with
  | none => false
  | some n =>
    let members := b.members.countP fun m => m.task.elim false fun r => some r.graph == b.graph && r.node == b.owner
    b.count != 0 && decide (b.joins + (n.record.tiles - n.ended - n.killed - members) < b.count)

/-- The hart waits at a BARW on a barrier that can never fill (R204). -/
def State.waitsOrphaned (s : State) (h : Hart) : Bool :=
  match h.waiting with
  | some (.barw o) => s.barriers.any fun b => (b.members.any fun m => m.is h && m.address == h.getX o.a) && s.orphaned b
  | _ => false

/-- BARW's condition (R203). -/
def Barrier.met (b : Barrier) (h : Hart) (d : Nat) : Bool :=
  (b.members.all fun m => m.is h || decide (h.csr.stripn.toNat - d ≤ m.phase.toNat)) && b.count ≤ b.joins

def execBarw (o : GOp) (s : State) : Host.Outcome State Fault Refusal :=
  finishNext (.barw o) (do
    auReads [o.a]
    let s ← get
    let a := s.x o.a
    let (b, _) ← memberOf a
    trapIf (s.orphaned b) .barrierOrphaned a (word (b.count - b.joins))
    if b.met s.hart (o.imm.toNat % 16) then acquireOp (o.fl.toNat % 8) else wait) s

def execBarl (o : GOp) (s : State) : Host.Outcome State Fault Refusal :=
  finishNext (.barl o) (do
    auReads [o.a]
    let a := (← get).x o.a
    let (b, joined) ← memberOf a
    modify fun s => s.removeMember b s.hart
    modHart fun h => { h with bars := h.bars.filter (·.1 != joined) }) s

/-- WMARK (R205). -/
def execWmark (o : GOp) (s : State) : Host.Outcome State Fault Refusal :=
  finishNext (.wmark o) (do
    auReads [o.a, o.b]
    let s ← get
    let q := s.hart.req (write := true) (atomic := true)
    let t ← checkAtomic q (.plain (s.x o.a)) 0 8
    releaseOp (o.fl.toNat % 8)
    let b := (s.x o.b).toNat
    let _ ← atomicAt q t 8 fun v => (some (Nat.max v b), 0)
    markActed) s

end Sys2Proof.Machine
end

