-- ==== Sys2Proof/Machine/Encoding.lean ====
section
/-!
DEFINITION. The opcode map (02:R39) and what each entry requires of its fields (02:R37, R38, R40, R41).
`Instr.legal` is the check that the decoder makes. Checks that need the state (privilege, VTY, VL, CSR numbers) are made
by the meanings.
-/

namespace Sys2Proof

/-- The fields of an instruction by format. -/
inductive Body where
  | g (o : GOp)
  | b (o : BOp)
  | m (o : MOp)
  | e (o : EOp)
  deriving DecidableEq, Repr

/-- The fields of format G that an entry may name. -/
inductive GField where
  | d | a | b | c | msk | mz | fl | x | imm
  deriving DecidableEq, Repr

/-- The fields of format B that an entry may name. -/
inductive BField where
  | d | a | b | likely | loff | tslot
  deriving DecidableEq, Repr

/-- The fields of format M that an entry may name. -/
inductive MField where
  | d | a | b | c | msk | mz | h | nf | ro | rot | ord | scope | ixw | aux | ofs
  deriving DecidableEq, Repr

/-- The fields of format E that an entry may name. -/
inductive EField where
  | d | a | b | c | fl | cmod | rv | rs | imm
  deriving DecidableEq, Repr

def GOp.clear (o : GOp) : GField → GOp
  | .d => { o with d := 0 }
  | .a => { o with a := 0 }
  | .b => { o with b := 0 }
  | .c => { o with c := 0 }
  | .msk => { o with msk := 0 }
  | .mz => { o with mz := 0 }
  | .fl => { o with fl := 0 }
  | .x => { o with x := 0 }
  | .imm => { o with imm := 0 }

def BOp.clear (o : BOp) : BField → BOp
  | .d => { o with d := 0 }
  | .a => { o with a := 0 }
  | .b => { o with b := 0 }
  | .likely => { o with likely := 0 }
  | .loff => { o with loff := 0 }
  | .tslot => { o with tslot := 0 }

def MOp.clear (o : MOp) : MField → MOp
  | .d => { o with d := 0 }
  | .a => { o with a := 0 }
  | .b => { o with b := 0 }
  | .c => { o with c := 0 }
  | .msk => { o with msk := 0 }
  | .mz => { o with mz := 0 }
  | .h => { o with h := 0 }
  | .nf => { o with nf := 0 }
  | .ro => { o with ro := 0 }
  | .rot => { o with rot := 0 }
  | .ord => { o with ord := 0 }
  | .scope => { o with scope := 0 }
  | .ixw => { o with ixw := 0 }
  | .aux => { o with aux := 0 }
  | .ofs => { o with ofs := 0 }

def EOp.clear (o : EOp) : EField → EOp
  | .d => { o with d := 0 }
  | .a => { o with a := 0 }
  | .b => { o with b := 0 }
  | .c => { o with c := 0 }
  | .fl => { o with fl := 0 }
  | .cmod => { o with cmod := 0 }
  | .rv => { o with rv := 0 }
  | .rs => { o with rs := 0 }
  | .imm => { o with imm := 0 }

/-- Every field but the named ones is zero (R38); the FORM is judged apart. -/
def GOp.plain (o : GOp) (used : List GField) : Bool :=
  used.foldl GOp.clear o == { form := o.form }

/-- FORM 0b11 and no field but the named ones (R34, R38). -/
def GOp.other (o : GOp) (used : List GField) : Bool := o.form == 3 && o.plain used

/-- FORM 0b11 and no field but the named ones (R34, R38). -/
def BOp.other (o : BOp) (used : List BField) : Bool :=
  o.form == 3 && used.foldl BOp.clear o == { form := o.form }

/-- FORM 0b11 and no field but the named ones (R34, R38). -/
def MOp.other (o : MOp) (used : List MField) : Bool :=
  o.form == 3 && used.foldl MOp.clear o == { form := o.form }

/-- FORM 0b11 and no field but the named ones (R34, R38). -/
def EOp.other (o : EOp) (used : List EField) : Bool :=
  o.form == 3 && used.foldl EOp.clear o == { form := o.form }

/-- FORM 0b00 only (R40). -/
def GOp.vv (o : GOp) (used : List GField) : Bool := o.form == 0 && o.plain used

/-- FORM 0b01 only (R40). -/
def GOp.vx (o : GOp) (used : List GField) : Bool := o.form == 1 && o.plain used

/-- FORM 0b00, 0b01 or 0b10, the B operand in field B or in IMM (R40). -/
def GOp.source2 (o : GOp) (used : List GField) : Bool :=
  o.form != 3 && o.plain ((if o.form == 2 then GField.imm else GField.b) :: used)

/-- The source of VMV: field A, field B or IMM by the FORM (R141). -/
def GOp.source1 (o : GOp) (used : List GField) : Bool :=
  o.form != 3 && o.plain ((if o.form == 0 then GField.a else if o.form == 1 then GField.b else GField.imm) :: used)

/-- An unmasked instruction has MZ = 0 (R38). -/
def GOp.maskOk (o : GOp) : Bool := o.msk != 0 || o.mz == 0

/-- An unmasked instruction has MZ = 0 (R38). -/
def MOp.maskOk (o : MOp) : Bool := o.msk != 0 || o.mz == 0

/-- The FL codes of a rounding field (R122). -/
def roundOk (fl : BitVec 4) : Bool := fl == 0 || (8 ≤ fl.toNat && fl.toNat ≤ 13)

/-- A register number of a file of `n` registers (R37). -/
def below (r : Reg) (n : Nat) : Bool := r.toNat < n

/-- A mask register m1 to m7 in a register field (R37). -/
def maskReg (r : Reg) : Bool := 1 ≤ r.toNat && r.toNat ≤ 7

/-- A stream register v48 to v63 (R276). -/
def streamReg (r : Reg) : Bool := 48 ≤ r.toNat

/-- The IMM of BFX, BFXS and BFI: POS [5:0], LEN [14:8] (R70). -/
def bitFieldOk (imm : BitVec 32) : Bool :=
  let pos := imm.toNat % 64
  let len := imm.toNat / 256 % 128
  imm &&& 0xFFFF80C0 == 0 && 1 ≤ len && len ≤ 64 && pos + len ≤ 64

/-- A target slot is 0 to 4 (R41). -/
def slotOk (t : BitVec 3) : Bool := t.toNat ≤ 4

/-- With H = 1, field A names h0 to h15 (R239). -/
def MOp.handleOk (o : MOp) : Bool := o.h == 0 || below o.a 16

/-- Loads: ORD 0b00 or 0b01, and RO only with ORD 0b00 (R238). -/
def MOp.loadOrdOk (o : MOp) : Bool := (o.ord == 0 || o.ord == 1) && (o.ro == 0 || o.ord == 0)

/-- Stores: ORD 0b00 or 0b10 (R238). -/
def MOp.storeOrdOk (o : MOp) : Bool := o.ord == 0 || o.ord == 2

/-- SCOPE 0 to 5 (R36, R38). -/
def MOp.scopeOk (o : MOp) : Bool := o.scope.toNat ≤ 5

/-- Scalar accesses: SCOPE is 0 when ORD is 0b00 (R75). -/
def MOp.scalarScopeOk (o : MOp) : Bool := o.scopeOk && (o.ord != 0 || o.scope == 0)

/-- A probe has ORD 0b00 and names m1 to m6 in field C, which is zero otherwise (R145, R240). -/
def MOp.probeOk (o : MOp) : Bool :=
  if o.nf == 1 then o.ord == 0 && 1 ≤ o.c.toNat && o.c.toNat ≤ 6 else o.c == 0

/-- AUX of VLD, VLDS, VST, VSTS: FAR alone (R145). -/
def MOp.auxPlain (o : MOp) : Bool := o.aux &&& 0x7F == 0

/-- AUX of VLDX, VSTX: FAR and SH (R145). -/
def MOp.auxShift (o : MOp) : Bool := o.aux &&& 0x7C == 0

/-- IXW 0 to 3 (R36). -/
def MOp.indexOk (o : MOp) : Bool := o.ixw.toNat ≤ 3

/-- VGATHB: BS in AUX[3:0] from 2 to 11; a probe has ORD 0b00 and MSK 1 to 6 (R243). -/
def MOp.blockOk (o : MOp) : Bool :=
  let bs := o.aux.toNat % 16
  2 ≤ bs && bs ≤ 11 && (o.nf == 0 || (o.ord == 0 && 1 ≤ o.msk.toNat && o.msk.toNat ≤ 6))

/-- TFMT of a conversion (R132). -/
def cvtTarget (x : BitVec 16) : Nat := x.toNat % 32

/-- X of VCVT: reserved bits, a target that is no BFP format, DSCL only for FP8 (R132, R133). -/
def cvtOk (x : BitVec 16) : Bool :=
  let t := cvtTarget x
  x.toNat < 128 && (t ≤ 0x0C || t == 0x18) && (!(x.getLsbD 6) || t == 0x0B || t == 0x0C)

/-- X of VCVTBFP: a BFP target, SATC and DSCL zero (R134). -/
def cvtBfpOk (x : BitVec 16) : Bool := 0x10 ≤ x.toNat && x.toNat ≤ 0x16

/-- X of VCVTFBP: a floating-point target, DSCL only for FP8 (R135). -/
def cvtFbpOk (x : BitVec 16) : Bool :=
  let t := cvtTarget x
  x.toNat < 128 && 8 ≤ t && t ≤ 0x0C && (!(x.getLsbD 6) || t == 0x0B || t == 0x0C)

/-- The accumulator and band fields of OPC 0x81 and DFAN (R177, R405). -/
def bandsOk (o : GOp) : Bool := below o.d 8 && below o.a 8 && below o.b 8 && below o.c 8

/-- X and IMM of ADRAINM: RV and RS in X[4] and X[10:5], MAX in X[1], MR in IMM[25:20] (R298). The table names RS with no condition,
so R38 does not reserve it when RV is 0 (DEDUCED, notes/assumptions/79.md). -/
def adrainmOk (o : GOp) : Bool :=
  o.x.toNat < 2048 && o.imm.toNat < 2 ^ 26 && (o.x.getLsbD 1 || o.imm.toNat / 2 ^ 20 == 0)

/-- RS is zero when RV is 0 (R36). -/
def EOp.ringOk (o : EOp) : Bool := o.rv == 1 || o.rs == 0

/-- The fields shared by the commands of OPC 0xB0 (R284). -/
def EOp.ladleOk (o : EOp) : Bool :=
  o.ringOk && below o.a 8 && !(o.fl.getLsbD 2) && (!(o.fl.getLsbD 0) || below o.b 16)
    && (!(o.fl.getLsbD 1) || below o.c 16) && o.imm.toNat < 2048

/-- CMOD of COPYCV: CONV [8:7], RMODE [6:5], SATC [4]; RMODE and SATC are zero when widening (R291). -/
def convOk (cmod : BitVec 9) : Bool :=
  cmod.toNat % 16 == 0 && cmod.toNat / 32 % 4 != 3 && (!(cmod.getLsbD 8) || cmod.toNat % 128 == 0)

/-- CMOD and IMM of COPYSEG (R292): DV and LR are zero, and IMM names the permutation register where PV is 1; elsewhere it is zero. -/
def segOk (o : EOp) : Bool :=
  o.cmod.toNat % 32 == 0 && o.cmod.toNat / 64 != 0 && o.imm.toNat < 64 && (o.cmod.getLsbD 5 || o.imm == 0)

/-- The selectors of APSET (R275). -/
def patternSelOk (imm : BitVec 32) : Bool :=
  imm.toNat < 16 && imm.toNat != 6 && imm.toNat != 7 && imm.toNat != 14

/-- SCOPE of BARA and BARW: core, pair, die or package (R202). -/
def barScopeOk (fl : BitVec 4) : Bool := 1 ≤ fl.toNat && fl.toNat ≤ 4

/-- IMM of FENCE (R254). -/
def fenceOk (imm : BitVec 32) : Bool :=
  imm.toNat < 2048 && imm.toNat / 256 ≤ 5 && imm.toNat / 128 % 2 == 0 && imm.toNat / 16 % 8 != 0
    && imm.toNat / 8 % 2 == 0 && imm.toNat % 8 != 0

/-- FL, A and B of TLBINV (R237). -/
def tlbinvOk (o : GOp) : Bool :=
  let kind := o.fl.toNat % 4
  o.fl.toNat / 4 != 3 && kind != 3 && (kind == 2 || o.a == 0) && (kind != 0 || o.b == 0)

/-- The fields of VLD1K are those of VLD (R405). -/
def MOp.vld1kOk (o : MOp) : Bool :=
  o.other [.d, .a, .c, .msk, .mz, .h, .nf, .ro, .ord, .scope, .aux, .ofs] && o.handleOk && o.maskOk && o.loadOrdOk && o.scopeOk && o.probeOk && o.auxPlain

/-- The fields of DFAN are those of DPROD with FL zero (R405). -/
def GOp.dfanOk (o : GOp) : Bool := o.other [.d, .a, .b, .c] && bandsOk o

/-- Opcode, function and fields of an instruction (R39); none for the device's events, which no word encodes. -/
def Instr.code : Instr → Option (BitVec 8 × BitVec 6 × Body)
  | .nop => some (0x00, 0x01, .g { form := 0 })
  | .add o => some (0x01, 0x00, .g o)
  | .sub o => some (0x01, 0x01, .g o)
  | .and o => some (0x01, 0x02, .g o)
  | .or o => some (0x01, 0x03, .g o)
  | .xor o => some (0x01, 0x04, .g o)
  | .andn o => some (0x01, 0x05, .g o)
  | .sll o => some (0x01, 0x06, .g o)
  | .srl o => some (0x01, 0x07, .g o)
  | .sra o => some (0x01, 0x08, .g o)
  | .rol o => some (0x01, 0x09, .g o)
  | .ror o => some (0x01, 0x0A, .g o)
  | .slt o => some (0x01, 0x0B, .g o)
  | .sltu o => some (0x01, 0x0C, .g o)
  | .min o => some (0x01, 0x0D, .g o)
  | .max o => some (0x01, 0x0E, .g o)
  | .minu o => some (0x01, 0x0F, .g o)
  | .maxu o => some (0x01, 0x10, .g o)
  | .mul o => some (0x01, 0x11, .g o)
  | .mulh o => some (0x01, 0x12, .g o)
  | .mulhu o => some (0x01, 0x13, .g o)
  | .div o => some (0x01, 0x14, .g o)
  | .divu o => some (0x01, 0x15, .g o)
  | .rem o => some (0x01, 0x16, .g o)
  | .remu o => some (0x01, 0x17, .g o)
  | .clz o => some (0x01, 0x18, .g o)
  | .ctz o => some (0x01, 0x19, .g o)
  | .cpop o => some (0x01, 0x1A, .g o)
  | .sel o => some (0x01, 0x1B, .g o)
  | .addi o => some (0x02, 0x00, .g o)
  | .andi o => some (0x02, 0x02, .g o)
  | .ori o => some (0x02, 0x03, .g o)
  | .xori o => some (0x02, 0x04, .g o)
  | .slli o => some (0x02, 0x06, .g o)
  | .srli o => some (0x02, 0x07, .g o)
  | .srai o => some (0x02, 0x08, .g o)
  | .slti o => some (0x02, 0x0B, .g o)
  | .sltiu o => some (0x02, 0x0C, .g o)
  | .muli o => some (0x02, 0x11, .g o)
  | .li o => some (0x02, 0x20, .g o)
  | .lihi o => some (0x02, 0x21, .g o)
  | .shadd o => some (0x03, 0x00, .g o)
  | .bfx o => some (0x03, 0x01, .g o)
  | .bfxs o => some (0x03, 0x02, .g o)
  | .bfi o => some (0x03, 0x03, .g o)
  | .beq o => some (0x20, 0x00, .b o)
  | .bne o => some (0x20, 0x01, .b o)
  | .blt o => some (0x20, 0x02, .b o)
  | .bge o => some (0x20, 0x03, .b o)
  | .bltu o => some (0x20, 0x04, .b o)
  | .bgeu o => some (0x20, 0x05, .b o)
  | .jal o => some (0x20, 0x06, .b o)
  | .jalr o => some (0x20, 0x07, .b o)
  | .loop o => some (0x21, 0x00, .b o)
  | .loopn o => some (0x21, 0x01, .b o)
  | .ldb o => some (0x30, 0x00, .m o)
  | .ldh o => some (0x30, 0x01, .m o)
  | .ldw o => some (0x30, 0x02, .m o)
  | .ldd o => some (0x30, 0x03, .m o)
  | .ldbu o => some (0x30, 0x04, .m o)
  | .ldhu o => some (0x30, 0x05, .m o)
  | .ldwu o => some (0x30, 0x06, .m o)
  | .stb o => some (0x30, 0x08, .m o)
  | .sth o => some (0x30, 0x09, .m o)
  | .stw o => some (0x30, 0x0A, .m o)
  | .std o => some (0x30, 0x0B, .m o)
  | .setvl o => some (0x40, 0x00, .g o)
  | .setvli o => some (0x40, 0x01, .g o)
  | .setvty o => some (0x40, 0x02, .g o)
  | .vadd o => some (0x41, 0x00, .g o)
  | .vsub o => some (0x41, 0x01, .g o)
  | .vrsub o => some (0x41, 0x02, .g o)
  | .vmul o => some (0x41, 0x03, .g o)
  | .vmulh o => some (0x41, 0x04, .g o)
  | .vmulhu o => some (0x41, 0x05, .g o)
  | .vmin o => some (0x41, 0x06, .g o)
  | .vmax o => some (0x41, 0x07, .g o)
  | .vminu o => some (0x41, 0x08, .g o)
  | .vmaxu o => some (0x41, 0x09, .g o)
  | .vand o => some (0x41, 0x0A, .g o)
  | .vor o => some (0x41, 0x0B, .g o)
  | .vxor o => some (0x41, 0x0C, .g o)
  | .vsll o => some (0x41, 0x0D, .g o)
  | .vsrl o => some (0x41, 0x0E, .g o)
  | .vsra o => some (0x41, 0x0F, .g o)
  | .vsadd o => some (0x41, 0x10, .g o)
  | .vssub o => some (0x41, 0x11, .g o)
  | .vsaddu o => some (0x41, 0x12, .g o)
  | .vssubu o => some (0x41, 0x13, .g o)
  | .vmacc o => some (0x41, 0x14, .g o)
  | .vdiv o => some (0x41, 0x15, .g o)
  | .vdivu o => some (0x41, 0x16, .g o)
  | .vrem o => some (0x41, 0x17, .g o)
  | .vremu o => some (0x41, 0x18, .g o)
  | .vcmpeq o => some (0x42, 0x00, .g o)
  | .vcmpne o => some (0x42, 0x01, .g o)
  | .vcmplt o => some (0x42, 0x02, .g o)
  | .vcmpltu o => some (0x42, 0x03, .g o)
  | .vcmple o => some (0x42, 0x04, .g o)
  | .vcmpleu o => some (0x42, 0x05, .g o)
  | .vcmpgt o => some (0x42, 0x06, .g o)
  | .vcmpgtu o => some (0x42, 0x07, .g o)
  | .vfcmpeq o => some (0x42, 0x08, .g o)
  | .vfcmplt o => some (0x42, 0x09, .g o)
  | .vfcmple o => some (0x42, 0x0A, .g o)
  | .vfcmpun o => some (0x42, 0x0B, .g o)
  | .vfadd o => some (0x43, 0x00, .g o)
  | .vfsub o => some (0x43, 0x01, .g o)
  | .vfmul o => some (0x43, 0x02, .g o)
  | .vfdiv o => some (0x43, 0x03, .g o)
  | .vfsqrt o => some (0x43, 0x04, .g o)
  | .vfmin o => some (0x43, 0x05, .g o)
  | .vfmax o => some (0x43, 0x06, .g o)
  | .vfma o => some (0x43, 0x07, .g o)
  | .vfms o => some (0x43, 0x08, .g o)
  | .vfnma o => some (0x43, 0x09, .g o)
  | .vfabs o => some (0x43, 0x0A, .g o)
  | .vfneg o => some (0x43, 0x0B, .g o)
  | .vfsgnj o => some (0x43, 0x0C, .g o)
  | .vfexp2 o => some (0x43, 0x0D, .g o)
  | .vfclass o => some (0x43, 0x0E, .g o)
  | .vcvt o => some (0x44, 0x00, .g o)
  | .vcvtbfp o => some (0x44, 0x01, .g o)
  | .vcvtfbp o => some (0x44, 0x02, .g o)
  | .vredsumO o => some (0x45, 0x00, .g o)
  | .vredsumU o => some (0x45, 0x01, .g o)
  | .vredsumi o => some (0x45, 0x02, .g o)
  | .vredmax o => some (0x45, 0x03, .g o)
  | .vredmin o => some (0x45, 0x04, .g o)
  | .vredand o => some (0x45, 0x05, .g o)
  | .vredor o => some (0x45, 0x06, .g o)
  | .vredxor o => some (0x45, 0x07, .g o)
  | .vscanO o => some (0x45, 0x08, .g o)
  | .vscanU o => some (0x45, 0x09, .g o)
  | .vscani o => some (0x45, 0x0A, .g o)
  | .vtopk o => some (0x45, 0x0B, .g o)
  | .vamax o => some (0x45, 0x0C, .g o)
  | .vmv o => some (0x46, 0x00, .g o)
  | .vmvxs o => some (0x46, 0x01, .g o)
  | .vmvsx o => some (0x46, 0x02, .g o)
  | .vbcast o => some (0x46, 0x03, .g o)
  | .vslup o => some (0x46, 0x04, .g o)
  | .vsldn o => some (0x46, 0x05, .g o)
  | .vperm o => some (0x46, 0x06, .g o)
  | .vcompr o => some (0x46, 0x07, .g o)
  | .viota o => some (0x46, 0x08, .g o)
  | .vid o => some (0x46, 0x09, .g o)
  | .vmerge o => some (0x46, 0x0A, .g o)
  | .vins o => some (0x46, 0x0B, .g o)
  | .mand o => some (0x47, 0x00, .g o)
  | .mor o => some (0x47, 0x01, .g o)
  | .mxor o => some (0x47, 0x02, .g o)
  | .mnot o => some (0x47, 0x03, .g o)
  | .mpopc o => some (0x47, 0x04, .g o)
  | .mfirst o => some (0x47, 0x05, .g o)
  | .mset o => some (0x47, 0x06, .g o)
  | .mmv o => some (0x47, 0x07, .g o)
  | .eset o => some (0x48, 0x00, .g o)
  | .emv o => some (0x48, 0x01, .g o)
  | .bsset o => some (0x80, 0x00, .g o)
  | .bsld o => some (0x80, 0x01, .g o)
  | .bsst o => some (0x80, 0x02, .g o)
  | .dprod o => some (0x81, 0x00, .g o)
  | .dcorr o => some (0x81, 0x01, .g o)
  | .dapply o => some (0x81, 0x02, .g o)
  | .azero o => some (0x82, 0x00, .g o)
  | .agang0 => some (0x82, 0x01, .g {})
  | .agang4 => some (0x82, 0x01, .g { d := 4 })
  | .agangBad => some (0x82, 0x01, .g { d := 1 })
  | .adrain o => some (0x82, 0x02, .g o)
  | .adrainm o => some (0x82, 0x03, .g o)
  | .aread o => some (0x82, 0x04, .g o)
  | .awrite o => some (0x82, 0x05, .g o)
  | .vld o => some (0x90, 0x00, .m o)
  | .vlds o => some (0x90, 0x01, .m o)
  | .vldx o => some (0x90, 0x02, .m o)
  | .vgathb o => some (0x90, 0x03, .m o)
  | .vldr o => some (0x90, 0x04, .m o)
  | .vst o => some (0x90, 0x08, .m o)
  | .vsts o => some (0x90, 0x09, .m o)
  | .vstx o => some (0x90, 0x0A, .m o)
  | .eld o => some (0x90, 0x0C, .m o)
  | .est o => some (0x90, 0x0D, .m o)
  | .mld o => some (0x90, 0x0E, .m o)
  | .mst o => some (0x90, 0x0F, .m o)
  | .amoswap o => some (0xA0, 0x00, .m o)
  | .amocas o => some (0xA0, 0x01, .m o)
  | .amoadd o => some (0xA0, 0x02, .m o)
  | .amoand o => some (0xA0, 0x03, .m o)
  | .amoor o => some (0xA0, 0x04, .m o)
  | .amoxor o => some (0xA0, 0x05, .m o)
  | .amomin o => some (0xA0, 0x06, .m o)
  | .amomax o => some (0xA0, 0x07, .m o)
  | .amominu o => some (0xA0, 0x08, .m o)
  | .amomaxu o => some (0xA0, 0x09, .m o)
  | .amofadd o => some (0xA0, 0x0A, .m o)
  | .amofmax o => some (0xA0, 0x0B, .m o)
  | .amoincw o => some (0xA0, 0x0C, .m o)
  | .amoaddb o => some (0xA0, 0x0D, .m o)
  | .vamo o => some (0xA1, 0x00, .m o)
  | .vfas o => some (0xA1, 0x01, .m o)
  | .copy o => some (0xB0, 0x00, .e o)
  | .copycv o => some (0xB0, 0x01, .e o)
  | .copyseg o => some (0xB0, 0x02, .e o)
  | .wsload o => some (0xB0, 0x03, .e o)
  | .mkout o => some (0xB0, 0x04, .e o)
  | .rinit o => some (0xB1, 0x00, .g o)
  | .rawait o => some (0xB1, 0x01, .g o)
  | .rrel o => some (0xB1, 0x02, .g o)
  | .rpeek o => some (0xB1, 0x03, .g o)
  | .son o => some (0xB2, 0x00, .g o)
  | .soff o => some (0xB2, 0x01, .g o)
  | .sstat o => some (0xB2, 0x02, .g o)
  | .binit o => some (0xB3, 0x00, .e o)
  | .bapp o => some (0xB3, 0x01, .e o)
  | .breplay o => some (0xB3, 0x02, .e o)
  | .bflush o => some (0xB3, 0x03, .e o)
  | .apld o => some (0xB4, 0x00, .g o)
  | .apst o => some (0xB4, 0x01, .g o)
  | .apset o => some (0xB4, 0x02, .g o)
  | .ralloc o => some (0xC0, 0x00, .g o)
  | .vfork o => some (0xC0, 0x01, .g o)
  | .vnarrow o => some (0xC0, 0x02, .g o)
  | .vsplit o => some (0xC0, 0x03, .g o)
  | .vdrop o => some (0xC0, 0x04, .g o)
  | .vinfo o => some (0xC0, 0x05, .g o)
  | .vexport o => some (0xC0, 0x06, .g o)
  | .vimport o => some (0xC0, 0x07, .g o)
  | .hgload o => some (0xC1, 0x00, .g o)
  | .hggrad o => some (0xC1, 0x01, .g o)
  | .hgcell o => some (0xC1, 0x02, .g o)
  | .endTask => some (0xC8, 0x00, .g {})
  | .launch o => some (0xC8, 0x01, .g o)
  | .yieldpt => some (0xC8, 0x02, .g {})
  | .wmark o => some (0xC8, 0x03, .g o)
  | .barj o => some (0xC8, 0x04, .g o)
  | .bara o => some (0xC8, 0x05, .g o)
  | .barw o => some (0xC8, 0x06, .g o)
  | .barl o => some (0xC8, 0x07, .g o)
  | .drain o => some (0xC8, 0x08, .g o)
  | .sleepu o => some (0xC8, 0x09, .g o)
  | .fence o => some (0xC9, 0x00, .g o)
  | .fenceRoHart => some (0xC9, 0x01, .g {})
  | .fenceRoCore => some (0xC9, 0x01, .g { imm := 256 })
  | .fenceRoPair => some (0xC9, 0x01, .g { imm := 512 })
  | .fenceRoDie => some (0xC9, 0x01, .g { imm := 768 })
  | .fenceRoPkg => some (0xC9, 0x01, .g { imm := 1024 })
  | .fenceRoSys => some (0xC9, 0x01, .g { imm := 1280 })
  | .fenceI => some (0xC9, 0x02, .g {})
  | .csrr o => some (0xD0, 0x00, .g o)
  | .csrw o => some (0xD0, 0x01, .g o)
  | .csrs o => some (0xD0, 0x02, .g o)
  | .csrc o => some (0xD0, 0x03, .g o)
  | .ecall o => some (0xD1, 0x00, .g o)
  | .brk o => some (0xD1, 0x01, .g o)
  | .tret => some (0xD1, 0x02, .g {})
  | .tlbinv o => some (0xD1, 0x03, .g o)
  | .wfi => some (0xD1, 0x04, .g {})
  | .vsegld o => some (0xE0, 0x00, .m o)
  | .dfan => some (0xE0, 0x01, .g {})
  | .vld1k => some (0xE0, 0x02, .m {})
  | .stripClose => none
  | .diagonalEnginePick => none
  | .tileReturn => none
  | .commandCompletion => none
  | .ladleFaultResume => none
  | .rawaitWake => none
  | .missedPromise => none
  | .streamRefill => none
  | .sieveApply => none
  | .scraperFree => none
  | .barwWake => none
  | .drainDone => none
  | .sleepuWake => none
  | .wfiWake => none
  | .trapReflect => none
  | .taskKill => none
  | .lqGo => none
  | .lqOvfClear => none
  | .registerWrite => none
  | .graphValidation => none
  | .nodeRelease => none
  | .nodeCompletion => none
  | .tilePlace => none
  | .priorityAging => none
  | .dispatcherWriteResume => none
  | .preemptRequest => none
  | .forcedStop => none
  | .refreshWindowStart => none
  | .refreshWindowEnd => none
  | .migrationLineCopy => none
  | .rdWritePerform => none
  | .hostRead => none
  | .hostWrite => none
  | .brynedFlit => none
  | .portDown => none
  | .brynedRequest => none
  | .coreStateError => none
  | .watchdogExpiry => none
  | .monitorEvent => none
  | .throttleEscalate => none
  | .budgetWindow => none
  | .codeObjectLoad => none
  | .boot => none
  | .sieveFaultResume => none
  | .accessPerform => none

/-- What R37, R38, R40 and the entry of each instruction require of its fields. -/
def Instr.legal : Instr → Bool
  | .nop => true
  | .add o => o.other [.d, .a, .b]
  | .sub o => o.other [.d, .a, .b]
  | .and o => o.other [.d, .a, .b]
  | .or o => o.other [.d, .a, .b]
  | .xor o => o.other [.d, .a, .b]
  | .andn o => o.other [.d, .a, .b]
  | .sll o => o.other [.d, .a, .b]
  | .srl o => o.other [.d, .a, .b]
  | .sra o => o.other [.d, .a, .b]
  | .rol o => o.other [.d, .a, .b]
  | .ror o => o.other [.d, .a, .b]
  | .slt o => o.other [.d, .a, .b]
  | .sltu o => o.other [.d, .a, .b]
  | .min o => o.other [.d, .a, .b]
  | .max o => o.other [.d, .a, .b]
  | .minu o => o.other [.d, .a, .b]
  | .maxu o => o.other [.d, .a, .b]
  | .mul o => o.other [.d, .a, .b]
  | .mulh o => o.other [.d, .a, .b]
  | .mulhu o => o.other [.d, .a, .b]
  | .div o => o.other [.d, .a, .b]
  | .divu o => o.other [.d, .a, .b]
  | .rem o => o.other [.d, .a, .b]
  | .remu o => o.other [.d, .a, .b]
  | .clz o => o.other [.d, .a]
  | .ctz o => o.other [.d, .a]
  | .cpop o => o.other [.d, .a]
  | .sel o => o.other [.d, .a, .b, .c]
  | .addi o => o.other [.d, .a, .imm]
  | .andi o => o.other [.d, .a, .imm]
  | .ori o => o.other [.d, .a, .imm]
  | .xori o => o.other [.d, .a, .imm]
  | .slli o => o.other [.d, .a, .imm] && o.imm.toNat < 64
  | .srli o => o.other [.d, .a, .imm] && o.imm.toNat < 64
  | .srai o => o.other [.d, .a, .imm] && o.imm.toNat < 64
  | .slti o => o.other [.d, .a, .imm]
  | .sltiu o => o.other [.d, .a, .imm]
  | .muli o => o.other [.d, .a, .imm]
  | .li o => o.other [.d, .imm]
  | .lihi o => o.other [.d, .a, .imm]
  | .shadd o => o.other [.d, .a, .b, .imm] && o.imm.toNat < 8
  | .bfx o => o.other [.d, .a, .imm] && bitFieldOk o.imm
  | .bfxs o => o.other [.d, .a, .imm] && bitFieldOk o.imm
  | .bfi o => o.other [.d, .a, .imm] && bitFieldOk o.imm
  | .beq o => o.other [.a, .b, .likely, .loff, .tslot] && slotOk o.tslot
  | .bne o => o.other [.a, .b, .likely, .loff, .tslot] && slotOk o.tslot
  | .blt o => o.other [.a, .b, .likely, .loff, .tslot] && slotOk o.tslot
  | .bge o => o.other [.a, .b, .likely, .loff, .tslot] && slotOk o.tslot
  | .bltu o => o.other [.a, .b, .likely, .loff, .tslot] && slotOk o.tslot
  | .bgeu o => o.other [.a, .b, .likely, .loff, .tslot] && slotOk o.tslot
  | .jal o => o.other [.d, .loff, .tslot] && slotOk o.tslot
  | .jalr o => o.other [.d, .a, .loff]
  | .loop o => o.other [.a, .likely, .loff, .tslot] && slotOk o.tslot && o.a != 0
  | .loopn o => o.other [.a, .likely, .loff, .tslot] && slotOk o.tslot && below o.a 8
  | .ldb o => o.other [.d, .a, .h, .ro, .ord, .scope, .ofs] && o.handleOk && o.loadOrdOk && o.scalarScopeOk
  | .ldh o => o.other [.d, .a, .h, .ro, .ord, .scope, .ofs] && o.handleOk && o.loadOrdOk && o.scalarScopeOk
  | .ldw o => o.other [.d, .a, .h, .ro, .ord, .scope, .ofs] && o.handleOk && o.loadOrdOk && o.scalarScopeOk
  | .ldd o => o.other [.d, .a, .h, .ro, .ord, .scope, .ofs] && o.handleOk && o.loadOrdOk && o.scalarScopeOk
  | .ldbu o => o.other [.d, .a, .h, .ro, .ord, .scope, .ofs] && o.handleOk && o.loadOrdOk && o.scalarScopeOk
  | .ldhu o => o.other [.d, .a, .h, .ro, .ord, .scope, .ofs] && o.handleOk && o.loadOrdOk && o.scalarScopeOk
  | .ldwu o => o.other [.d, .a, .h, .ro, .ord, .scope, .ofs] && o.handleOk && o.loadOrdOk && o.scalarScopeOk
  | .stb o => o.other [.a, .c, .h, .ord, .scope, .ofs] && o.handleOk && o.storeOrdOk && o.scalarScopeOk
  | .sth o => o.other [.a, .c, .h, .ord, .scope, .ofs] && o.handleOk && o.storeOrdOk && o.scalarScopeOk
  | .stw o => o.other [.a, .c, .h, .ord, .scope, .ofs] && o.handleOk && o.storeOrdOk && o.scalarScopeOk
  | .std o => o.other [.a, .c, .h, .ord, .scope, .ofs] && o.handleOk && o.storeOrdOk && o.scalarScopeOk
  | .setvl o => o.other [.d, .a, .imm]
  | .setvli o => o.other [.d, .x, .imm]
  | .setvty o => o.other [.d, .a, .b]
  | .vadd o => o.source2 [.d, .a, .msk, .mz] && o.maskOk
  | .vsub o => o.source2 [.d, .a, .msk, .mz] && o.maskOk
  | .vrsub o => o.source2 [.d, .a, .msk, .mz] && o.maskOk
  | .vmul o => o.source2 [.d, .a, .msk, .mz] && o.maskOk
  | .vmulh o => o.source2 [.d, .a, .msk, .mz] && o.maskOk
  | .vmulhu o => o.source2 [.d, .a, .msk, .mz] && o.maskOk
  | .vmin o => o.source2 [.d, .a, .msk, .mz] && o.maskOk
  | .vmax o => o.source2 [.d, .a, .msk, .mz] && o.maskOk
  | .vminu o => o.source2 [.d, .a, .msk, .mz] && o.maskOk
  | .vmaxu o => o.source2 [.d, .a, .msk, .mz] && o.maskOk
  | .vand o => o.source2 [.d, .a, .msk, .mz] && o.maskOk
  | .vor o => o.source2 [.d, .a, .msk, .mz] && o.maskOk
  | .vxor o => o.source2 [.d, .a, .msk, .mz] && o.maskOk
  | .vsll o => o.source2 [.d, .a, .msk, .mz] && o.maskOk
  | .vsrl o => o.source2 [.d, .a, .msk, .mz] && o.maskOk
  | .vsra o => o.source2 [.d, .a, .msk, .mz] && o.maskOk
  | .vsadd o => o.source2 [.d, .a, .msk, .mz] && o.maskOk
  | .vssub o => o.source2 [.d, .a, .msk, .mz] && o.maskOk
  | .vsaddu o => o.source2 [.d, .a, .msk, .mz] && o.maskOk
  | .vssubu o => o.source2 [.d, .a, .msk, .mz] && o.maskOk
  | .vmacc o => o.source2 [.d, .a, .msk, .mz] && o.maskOk
  | .vdiv o => o.source2 [.d, .a, .msk, .mz] && o.maskOk
  | .vdivu o => o.source2 [.d, .a, .msk, .mz] && o.maskOk
  | .vrem o => o.source2 [.d, .a, .msk, .mz] && o.maskOk
  | .vremu o => o.source2 [.d, .a, .msk, .mz] && o.maskOk
  | .vcmpeq o => o.source2 [.d, .a, .msk, .mz] && o.maskOk && maskReg o.d
  | .vcmpne o => o.source2 [.d, .a, .msk, .mz] && o.maskOk && maskReg o.d
  | .vcmplt o => o.source2 [.d, .a, .msk, .mz] && o.maskOk && maskReg o.d
  | .vcmpltu o => o.source2 [.d, .a, .msk, .mz] && o.maskOk && maskReg o.d
  | .vcmple o => o.source2 [.d, .a, .msk, .mz] && o.maskOk && maskReg o.d
  | .vcmpleu o => o.source2 [.d, .a, .msk, .mz] && o.maskOk && maskReg o.d
  | .vcmpgt o => o.source2 [.d, .a, .msk, .mz] && o.maskOk && maskReg o.d
  | .vcmpgtu o => o.source2 [.d, .a, .msk, .mz] && o.maskOk && maskReg o.d
  | .vfcmpeq o => o.source2 [.d, .a, .msk, .mz] && o.maskOk && maskReg o.d
  | .vfcmplt o => o.source2 [.d, .a, .msk, .mz] && o.maskOk && maskReg o.d
  | .vfcmple o => o.source2 [.d, .a, .msk, .mz] && o.maskOk && maskReg o.d
  | .vfcmpun o => o.source2 [.d, .a, .msk, .mz] && o.maskOk && maskReg o.d
  | .vfadd o => o.source2 [.d, .a, .msk, .mz, .fl] && o.maskOk && roundOk o.fl
  | .vfsub o => o.source2 [.d, .a, .msk, .mz, .fl] && o.maskOk && roundOk o.fl
  | .vfmul o => o.source2 [.d, .a, .msk, .mz, .fl] && o.maskOk && roundOk o.fl
  | .vfdiv o => o.source2 [.d, .a, .msk, .mz, .fl] && o.maskOk && roundOk o.fl
  | .vfsqrt o => o.vv [.d, .a, .msk, .mz, .fl] && o.maskOk && roundOk o.fl
  | .vfmin o => o.source2 [.d, .a, .msk, .mz, .fl] && o.maskOk && roundOk o.fl
  | .vfmax o => o.source2 [.d, .a, .msk, .mz, .fl] && o.maskOk && roundOk o.fl
  | .vfma o => o.source2 [.d, .a, .c, .msk, .mz, .fl] && o.maskOk && roundOk o.fl
  | .vfms o => o.source2 [.d, .a, .c, .msk, .mz, .fl] && o.maskOk && roundOk o.fl
  | .vfnma o => o.source2 [.d, .a, .c, .msk, .mz, .fl] && o.maskOk && roundOk o.fl
  | .vfabs o => o.vv [.d, .a, .msk, .mz, .fl] && o.maskOk && roundOk o.fl
  | .vfneg o => o.vv [.d, .a, .msk, .mz, .fl] && o.maskOk && roundOk o.fl
  | .vfsgnj o => o.source2 [.d, .a, .msk, .mz, .fl] && o.maskOk && roundOk o.fl
  | .vfexp2 o => o.vv [.d, .a, .msk, .mz, .fl] && o.maskOk && roundOk o.fl
  | .vfclass o => o.vv [.d, .a, .msk, .mz] && o.maskOk
  | .vcvt o => o.vv [.d, .a, .msk, .mz, .fl, .x] && o.maskOk && roundOk o.fl && cvtOk o.x
  | .vcvtbfp o => o.vv [.d, .a, .msk, .mz, .fl, .x] && o.maskOk && roundOk o.fl && cvtBfpOk o.x
  | .vcvtfbp o => o.vv [.d, .a, .msk, .mz, .fl, .x] && o.maskOk && roundOk o.fl && cvtFbpOk o.x
  | .vredsumO o => o.vv [.d, .a, .b, .msk, .fl] && roundOk o.fl
  | .vredsumU o => o.vv [.d, .a, .b, .msk, .fl] && roundOk o.fl
  | .vredsumi o => o.vv [.d, .a, .b, .msk]
  | .vredmax o => o.vv [.d, .a, .b, .msk]
  | .vredmin o => o.vv [.d, .a, .b, .msk]
  | .vredand o => o.vv [.d, .a, .b, .msk]
  | .vredor o => o.vv [.d, .a, .b, .msk]
  | .vredxor o => o.vv [.d, .a, .b, .msk]
  | .vscanO o => o.vv [.d, .a, .b, .msk, .mz, .fl] && o.maskOk && roundOk o.fl
  | .vscanU o => o.vv [.d, .a, .b, .msk, .mz, .fl] && o.maskOk && roundOk o.fl
  | .vscani o => o.vv [.d, .a, .b, .msk, .mz] && o.maskOk
  | .vtopk o => o.vv [.d, .a, .c, .msk, .imm]
  | .vamax o => o.vv [.d, .a, .msk, .mz] && o.maskOk
  | .vmv o => o.source1 [.d, .msk, .mz] && o.maskOk
  | .vmvxs o => o.vv [.d, .a, .imm]
  | .vmvsx o => o.vx [.d, .b]
  | .vbcast o => o.vv [.d, .a, .msk, .mz, .imm] && o.maskOk
  | .vslup o => o.source2 [.d, .a, .msk, .mz] && o.maskOk && o.form != 0
  | .vsldn o => o.source2 [.d, .a, .msk, .mz] && o.maskOk && o.form != 0
  | .vperm o => o.vv [.d, .a, .b, .msk, .mz] && o.maskOk
  | .vcompr o => o.vv [.d, .a, .msk]
  | .viota o => o.vv [.d, .a, .msk, .mz] && o.maskOk && maskReg o.a
  | .vid o => o.vv [.d, .msk, .mz] && o.maskOk
  | .vmerge o => o.source2 [.d, .a, .msk] && o.msk != 0
  | .vins o => o.vx [.d, .b, .imm]
  | .mand o => o.other [.d, .a, .b] && maskReg o.d && maskReg o.a && maskReg o.b
  | .mor o => o.other [.d, .a, .b] && maskReg o.d && maskReg o.a && maskReg o.b
  | .mxor o => o.other [.d, .a, .b] && maskReg o.d && maskReg o.a && maskReg o.b
  | .mnot o => o.other [.d, .a] && maskReg o.d && maskReg o.a
  | .mpopc o => o.other [.d, .a] && maskReg o.a
  | .mfirst o => o.other [.d, .a] && maskReg o.a
  | .mset o => o.other [.d, .imm] && maskReg o.d
  | .mmv o => o.other [.d, .a] && maskReg o.d && maskReg o.a
  | .eset o => o.other [.d, .a, .imm] && o.imm.toNat < 256
  | .emv o => o.other [.d, .a]
  | .bsset o => o.other [.d, .a, .b, .c] && below o.d 8
  | .bsld o => o.other [.d, .a, .imm] && below o.d 8
  | .bsst o => o.other [.a, .c, .imm] && below o.c 8
  | .dprod o => o.other [.d, .a, .b, .c, .fl] && bandsOk o && o.fl.toNat < 2
  | .dcorr o => o.other [.d, .a, .b, .c] && bandsOk o
  | .dapply o => o.other [.d, .a, .b, .c] && bandsOk o
  | .azero o => o.other [.d] && below o.d 8
  | .agang0 => true
  | .agang4 => true
  | .agangBad => true
  | .adrain o => o.other [.d, .a, .b, .msk, .mz, .fl, .x, .imm] && below o.a 8 && o.maskOk && roundOk o.fl && o.x.toNat < 8 && o.imm.toNat < 1024 && (o.x.getLsbD 1 || o.b == 0)
  | .adrainm o => o.other [.d, .a, .b, .c, .fl, .x, .imm] && below o.a 8 && roundOk o.fl && adrainmOk o
  | .aread o => o.other [.d, .a, .msk, .mz, .x, .imm] && below o.a 8 && o.maskOk && o.x.toNat < 2 && o.imm.toNat < 1024
  | .awrite o => o.other [.d, .a, .msk, .x, .imm] && below o.d 8 && o.x.toNat < 2 && o.imm.toNat < 1024
  | .vld o => o.other [.d, .a, .c, .msk, .mz, .h, .nf, .ro, .ord, .scope, .aux, .ofs] && o.handleOk && o.maskOk && o.loadOrdOk && o.scopeOk && o.probeOk && o.auxPlain
  | .vlds o => o.other [.d, .a, .b, .c, .msk, .mz, .h, .nf, .ro, .ord, .scope, .aux, .ofs] && o.handleOk && o.maskOk && o.loadOrdOk && o.scopeOk && o.probeOk && o.auxPlain
  | .vldx o => o.other [.d, .a, .b, .c, .msk, .mz, .h, .nf, .ro, .ord, .scope, .ixw, .aux, .ofs] && o.handleOk && o.maskOk && o.loadOrdOk && o.scopeOk && o.probeOk && o.indexOk && o.auxShift
  | .vgathb o => o.other [.d, .a, .b, .c, .msk, .mz, .h, .nf, .ro, .ord, .scope, .ixw, .aux, .ofs] && o.handleOk && o.maskOk && o.loadOrdOk && o.scopeOk && o.indexOk && o.blockOk
  | .vldr o => o.other [.d, .a, .b, .c, .msk, .mz, .h, .ro, .rot, .ord, .scope, .ofs] && o.handleOk && o.maskOk && o.loadOrdOk && o.scopeOk && o.rot == 1
  | .vst o => o.other [.a, .c, .msk, .h, .ord, .scope, .aux, .ofs] && o.handleOk && o.storeOrdOk && o.scopeOk && o.auxPlain
  | .vsts o => o.other [.a, .b, .c, .msk, .h, .ord, .scope, .aux, .ofs] && o.handleOk && o.storeOrdOk && o.scopeOk && o.auxPlain
  | .vstx o => o.other [.a, .b, .c, .msk, .h, .ord, .scope, .ixw, .aux, .ofs] && o.handleOk && o.storeOrdOk && o.scopeOk && o.indexOk && o.auxShift
  | .eld o => o.other [.d, .a, .h, .ord, .scope, .ofs] && o.handleOk && o.loadOrdOk && o.scopeOk
  | .est o => o.other [.a, .c, .h, .ord, .scope, .ofs] && o.handleOk && o.storeOrdOk && o.scopeOk
  | .mld o => o.other [.d, .a, .h, .ord, .scope, .ofs] && o.handleOk && o.loadOrdOk && o.scopeOk && maskReg o.d
  | .mst o => o.other [.a, .c, .h, .ord, .scope, .ofs] && o.handleOk && o.storeOrdOk && o.scopeOk && maskReg o.c
  | .amoswap o => o.other [.d, .a, .c, .h, .ord, .scope, .aux, .ofs] && o.handleOk && o.scopeOk && o.aux.toNat < 2
  | .amocas o => o.other [.d, .a, .b, .c, .h, .ord, .scope, .aux, .ofs] && o.handleOk && o.scopeOk && o.aux.toNat < 2
  | .amoadd o => o.other [.d, .a, .c, .h, .ord, .scope, .aux, .ofs] && o.handleOk && o.scopeOk && o.aux.toNat < 2
  | .amoand o => o.other [.d, .a, .c, .h, .ord, .scope, .aux, .ofs] && o.handleOk && o.scopeOk && o.aux.toNat < 2
  | .amoor o => o.other [.d, .a, .c, .h, .ord, .scope, .aux, .ofs] && o.handleOk && o.scopeOk && o.aux.toNat < 2
  | .amoxor o => o.other [.d, .a, .c, .h, .ord, .scope, .aux, .ofs] && o.handleOk && o.scopeOk && o.aux.toNat < 2
  | .amomin o => o.other [.d, .a, .c, .h, .ord, .scope, .aux, .ofs] && o.handleOk && o.scopeOk && o.aux.toNat < 2
  | .amomax o => o.other [.d, .a, .c, .h, .ord, .scope, .aux, .ofs] && o.handleOk && o.scopeOk && o.aux.toNat < 2
  | .amominu o => o.other [.d, .a, .c, .h, .ord, .scope, .aux, .ofs] && o.handleOk && o.scopeOk && o.aux.toNat < 2
  | .amomaxu o => o.other [.d, .a, .c, .h, .ord, .scope, .aux, .ofs] && o.handleOk && o.scopeOk && o.aux.toNat < 2
  | .amofadd o => o.other [.d, .a, .c, .h, .ord, .scope, .ofs] && o.handleOk && o.scopeOk
  | .amofmax o => o.other [.d, .a, .c, .h, .ord, .scope, .ofs] && o.handleOk && o.scopeOk
  | .amoincw o => o.other [.d, .a, .c, .h, .ord, .scope, .aux, .ofs] && o.handleOk && o.scopeOk && o.aux.toNat < 2
  | .amoaddb o => o.other [.d, .a, .b, .c, .h, .ord, .scope, .aux, .ofs] && o.handleOk && o.scopeOk && o.aux.toNat < 2
  | .vamo o => o.other [.d, .a, .b, .c, .msk, .mz, .h, .ord, .scope, .ixw, .aux, .ofs] && o.handleOk && o.maskOk && o.scopeOk && o.indexOk && o.aux.toNat < 128 && o.aux.toNat % 32 < 14
  | .vfas o => o.other [.d, .a, .c, .msk, .mz, .h, .ord, .scope, .ofs] && o.handleOk && o.maskOk && o.scopeOk
  | .copy o => o.other [.d, .a, .b, .c, .fl, .rv, .rs, .imm] && o.ladleOk
  | .copycv o => o.other [.d, .a, .b, .c, .fl, .cmod, .rv, .rs, .imm] && o.ladleOk && convOk o.cmod
  | .copyseg o => o.other [.d, .a, .b, .c, .fl, .cmod, .imm] && o.ladleOk && o.fl.toNat < 2 && segOk o
  | .wsload o => o.other [.d, .a, .b, .c, .fl, .rv, .rs, .imm] && o.ladleOk && !(o.fl.getLsbD 1)
  | .mkout o => o.other [.d, .a, .b, .c, .fl, .cmod, .rv, .rs] && o.ladleOk && o.fl.toNat % 8 == 0 && o.cmod.toNat % 128 == 0 && o.cmod != 0
  | .rinit o => o.other [.a, .b, .c]
  | .rawait o => o.other [.d, .a, .b, .fl, .imm] && o.fl.toNat < 2 && (o.fl == 1 || o.b == 0) && o.imm.toNat < 4096
  | .rrel o => o.other [.a, .imm] && 1 ≤ o.imm.toNat && o.imm.toNat ≤ 4096
  | .rpeek o => o.other [.d, .a, .imm] && o.imm.toNat < 4096
  | .son o => o.other [.d, .a, .b, .c, .fl] && streamReg o.d && below o.a 8 && o.fl.toNat < 2 && (o.fl == 0 || below o.b 16)
  | .soff o => o.other [.a] && streamReg o.a
  | .sstat o => o.other [.d, .a] && streamReg o.a
  | .binit o => o.other [.c]
  | .bapp o => o.other [.a, .b, .c, .cmod] && o.cmod.toNat < 8
  | .breplay o => o.other [.d, .c, .rv, .rs] && o.ringOk
  | .bflush o => o.other [.d, .c, .rv, .rs] && o.ringOk
  | .apld o => o.other [.d, .a, .imm] && below o.d 8
  | .apst o => o.other [.a, .c, .imm] && below o.c 8
  | .apset o => o.other [.d, .a, .imm] && below o.d 8 && patternSelOk o.imm
  | .ralloc o => o.other [.d, .a, .c] && below o.d 16
  | .vfork o => o.other [.d, .a] && below o.d 16 && below o.a 16
  | .vnarrow o => o.other [.a, .b, .c] && below o.a 16
  | .vsplit o => o.other [.d, .a, .b] && below o.d 16 && below o.a 16
  | .vdrop o => o.other [.a] && below o.a 16
  | .vinfo o => o.other [.d, .a, .imm] && below o.a 16 && o.imm.toNat < 4
  | .vexport o => o.other [.d, .a] && below o.a 16
  | .vimport o => o.other [.d, .a] && below o.d 16
  | .hgload o => o.other [.d, .a, .b, .msk, .mz, .imm] && o.maskOk && o.imm.toNat < 256
  | .hggrad o => o.other [.d, .a, .b, .c, .msk, .fl, .imm] && o.imm.toNat < 256 && o.fl.toNat < 2 && (o.fl == 1 || o.d == 0)
  | .hgcell o => o.other [.d, .a, .b, .c, .msk, .mz, .imm] && o.maskOk && o.imm.toNat < 65536
  | .endTask => true
  | .launch o => o.other [.d, .a, .fl] && o.fl.toNat < 2
  | .yieldpt => true
  | .wmark o => o.other [.a, .b, .fl] && (o.fl == 3 || o.fl == 4)
  | .barj o => o.other [.a, .b]
  | .bara o => o.other [.a, .fl] && barScopeOk o.fl
  | .barw o => o.other [.a, .fl, .imm] && barScopeOk o.fl && o.imm.toNat ≤ 8
  | .barl o => o.other [.a]
  | .drain o => o.other [.imm] && o.imm.toNat < 32 && o.imm.toNat % 16 != 0
  | .sleepu o => o.other [.a]
  | .fence o => o.other [.imm] && fenceOk o.imm
  | .fenceRoHart => true
  | .fenceRoCore => true
  | .fenceRoPair => true
  | .fenceRoDie => true
  | .fenceRoPkg => true
  | .fenceRoSys => true
  | .fenceI => true
  | .csrr o => o.other [.d, .imm] && o.imm.toNat < 4096
  | .csrw o => o.other [.d, .a, .imm] && o.imm.toNat < 4096
  | .csrs o => o.other [.d, .a, .imm] && o.imm.toNat < 4096
  | .csrc o => o.other [.d, .a, .imm] && o.imm.toNat < 4096
  | .ecall o => o.other [.imm]
  | .brk o => o.other [.imm]
  | .tret => true
  | .tlbinv o => o.other [.a, .b, .fl] && tlbinvOk o
  | .wfi => true
  | .vsegld o => o.other [.d, .a, .msk, .mz, .aux, .ofs] && o.maskOk && 1 ≤ o.aux.toNat && o.aux.toNat < 8
  | .dfan => true
  | .vld1k => true
  | .stripClose => false
  | .diagonalEnginePick => false
  | .tileReturn => false
  | .commandCompletion => false
  | .ladleFaultResume => false
  | .rawaitWake => false
  | .missedPromise => false
  | .streamRefill => false
  | .sieveApply => false
  | .scraperFree => false
  | .barwWake => false
  | .drainDone => false
  | .sleepuWake => false
  | .wfiWake => false
  | .trapReflect => false
  | .taskKill => false
  | .lqGo => false
  | .lqOvfClear => false
  | .registerWrite => false
  | .graphValidation => false
  | .nodeRelease => false
  | .nodeCompletion => false
  | .tilePlace => false
  | .priorityAging => false
  | .dispatcherWriteResume => false
  | .preemptRequest => false
  | .forcedStop => false
  | .refreshWindowStart => false
  | .refreshWindowEnd => false
  | .migrationLineCopy => false
  | .rdWritePerform => false
  | .hostRead => false
  | .hostWrite => false
  | .brynedFlit => false
  | .portDown => false
  | .brynedRequest => false
  | .coreStateError => false
  | .watchdogExpiry => false
  | .monitorEvent => false
  | .throttleEscalate => false
  | .budgetWindow => false
  | .codeObjectLoad => false
  | .boot => false
  | .sieveFaultResume => false
  | .accessPerform => false

end Sys2Proof
end

