-- ==== Sys2Proof/WellFormed.lean ====
section
/-!
DEFINITION. Well-formed instructions: the fields are those that the entry of the instruction allows (02:R37, R38, R40, R41).
An event is not encoded by any word, and is not well-formed as an instruction.
-/

namespace Sys2Proof

/-- An instruction that some slot word encodes. -/
abbrev Instr.WellFormed (i : Instr) : Prop := i.legal = true

end Sys2Proof
end

