-- ==== Sys2Proof/Decode.lean ====
section
/-!
DEFINITION. The decoder, total on any slot word and on any bytes (02:R26, R34, R36, R39, R41), and the encoder.
A word that R41 calls no instruction is refused by name.
-/

namespace Sys2Proof

/-- The fields of format G of a slot word (R36). -/
def GOp.ofWord (w : SlotWord) : GOp :=
  { form := w.extractLsb' 86 2, d := w.extractLsb' 74 6, a := w.extractLsb' 68 6, b := w.extractLsb' 62 6,
    c := w.extractLsb' 56 6, msk := w.extractLsb' 53 3, mz := w.extractLsb' 52 1, fl := w.extractLsb' 48 4,
    x := w.extractLsb' 32 16, imm := w.extractLsb' 0 32 }

/-- The fields of format B of a slot word (R36). -/
def BOp.ofWord (w : SlotWord) : BOp :=
  { form := w.extractLsb' 86 2, d := w.extractLsb' 74 6, a := w.extractLsb' 68 6, b := w.extractLsb' 62 6,
    z1 := w.extractLsb' 48 14, z2 := w.extractLsb' 33 15, likely := w.extractLsb' 32 1,
    loff := w.extractLsb' 3 29, tslot := w.extractLsb' 0 3 }

/-- The fields of format M of a slot word (R36). -/
def MOp.ofWord (w : SlotWord) : MOp :=
  { form := w.extractLsb' 86 2, d := w.extractLsb' 74 6, a := w.extractLsb' 68 6, b := w.extractLsb' 62 6,
    c := w.extractLsb' 56 6, msk := w.extractLsb' 53 3, mz := w.extractLsb' 52 1, h := w.extractLsb' 51 1,
    nf := w.extractLsb' 50 1, ro := w.extractLsb' 49 1, rot := w.extractLsb' 48 1, ord := w.extractLsb' 46 2,
    scope := w.extractLsb' 43 3, ixw := w.extractLsb' 40 3, aux := w.extractLsb' 32 8, ofs := w.extractLsb' 0 32 }

/-- The fields of format E of a slot word (R36). -/
def EOp.ofWord (w : SlotWord) : EOp :=
  { form := w.extractLsb' 86 2, d := w.extractLsb' 74 6, a := w.extractLsb' 68 6, b := w.extractLsb' 62 6,
    c := w.extractLsb' 56 6, z := w.extractLsb' 52 4, fl := w.extractLsb' 48 4, cmod := w.extractLsb' 39 9,
    rv := w.extractLsb' 38 1, rs := w.extractLsb' 32 6, imm := w.extractLsb' 0 32 }

/-- Why a slot word is no instruction (R41). -/
inductive DecodeError where
  /-- OPC or FN is not listed in R39. -/
  | unassigned
  /-- FORM, a reserved field or code point, or a register field is outside what the entry allows. -/
  | illegalField
  deriving DecidableEq, Repr

/-- An instruction without a field is exactly the words that pass the test. -/
def exact (ok : Bool) (i : Instr) : Except DecodeError Instr := if ok then .ok i else .error .illegalField

/-- FENCE.RO by its SCOPE in IMM[10:8] (R242). -/
def fenceRoOf (o : GOp) : Except DecodeError Instr :=
  if o == {} then .ok .fenceRoHart
  else if o == { imm := 0x100 } then .ok .fenceRoCore
  else if o == { imm := 0x200 } then .ok .fenceRoPair
  else if o == { imm := 0x300 } then .ok .fenceRoDie
  else if o == { imm := 0x400 } then .ok .fenceRoPkg
  else exact (o == { imm := 0x500 }) .fenceRoSys

/-- The opcode map read from a word's OPC and FN, before the fields of the entry are judged (R39). -/
def ofCode (opc fn : Nat) (w : SlotWord) : Except DecodeError Instr :=
  match opc with
  | 0x00 => match fn with
    | 0x01 => exact (GOp.ofWord w == { form := 0 }) .nop
    | _ => .error .unassigned
  | 0x01 => match fn with
    | 0x00 => .ok (.add (GOp.ofWord w))
    | 0x01 => .ok (.sub (GOp.ofWord w))
    | 0x02 => .ok (.and (GOp.ofWord w))
    | 0x03 => .ok (.or (GOp.ofWord w))
    | 0x04 => .ok (.xor (GOp.ofWord w))
    | 0x05 => .ok (.andn (GOp.ofWord w))
    | 0x06 => .ok (.sll (GOp.ofWord w))
    | 0x07 => .ok (.srl (GOp.ofWord w))
    | 0x08 => .ok (.sra (GOp.ofWord w))
    | 0x09 => .ok (.rol (GOp.ofWord w))
    | 0x0A => .ok (.ror (GOp.ofWord w))
    | 0x0B => .ok (.slt (GOp.ofWord w))
    | 0x0C => .ok (.sltu (GOp.ofWord w))
    | 0x0D => .ok (.min (GOp.ofWord w))
    | 0x0E => .ok (.max (GOp.ofWord w))
    | 0x0F => .ok (.minu (GOp.ofWord w))
    | 0x10 => .ok (.maxu (GOp.ofWord w))
    | 0x11 => .ok (.mul (GOp.ofWord w))
    | 0x12 => .ok (.mulh (GOp.ofWord w))
    | 0x13 => .ok (.mulhu (GOp.ofWord w))
    | 0x14 => .ok (.div (GOp.ofWord w))
    | 0x15 => .ok (.divu (GOp.ofWord w))
    | 0x16 => .ok (.rem (GOp.ofWord w))
    | 0x17 => .ok (.remu (GOp.ofWord w))
    | 0x18 => .ok (.clz (GOp.ofWord w))
    | 0x19 => .ok (.ctz (GOp.ofWord w))
    | 0x1A => .ok (.cpop (GOp.ofWord w))
    | 0x1B => .ok (.sel (GOp.ofWord w))
    | _ => .error .unassigned
  | 0x02 => match fn with
    | 0x00 => .ok (.addi (GOp.ofWord w))
    | 0x02 => .ok (.andi (GOp.ofWord w))
    | 0x03 => .ok (.ori (GOp.ofWord w))
    | 0x04 => .ok (.xori (GOp.ofWord w))
    | 0x06 => .ok (.slli (GOp.ofWord w))
    | 0x07 => .ok (.srli (GOp.ofWord w))
    | 0x08 => .ok (.srai (GOp.ofWord w))
    | 0x0B => .ok (.slti (GOp.ofWord w))
    | 0x0C => .ok (.sltiu (GOp.ofWord w))
    | 0x11 => .ok (.muli (GOp.ofWord w))
    | 0x20 => .ok (.li (GOp.ofWord w))
    | 0x21 => .ok (.lihi (GOp.ofWord w))
    | _ => .error .unassigned
  | 0x03 => match fn with
    | 0x00 => .ok (.shadd (GOp.ofWord w))
    | 0x01 => .ok (.bfx (GOp.ofWord w))
    | 0x02 => .ok (.bfxs (GOp.ofWord w))
    | 0x03 => .ok (.bfi (GOp.ofWord w))
    | _ => .error .unassigned
  | 0x20 => match fn with
    | 0x00 => .ok (.beq (BOp.ofWord w))
    | 0x01 => .ok (.bne (BOp.ofWord w))
    | 0x02 => .ok (.blt (BOp.ofWord w))
    | 0x03 => .ok (.bge (BOp.ofWord w))
    | 0x04 => .ok (.bltu (BOp.ofWord w))
    | 0x05 => .ok (.bgeu (BOp.ofWord w))
    | 0x06 => .ok (.jal (BOp.ofWord w))
    | 0x07 => .ok (.jalr (BOp.ofWord w))
    | _ => .error .unassigned
  | 0x21 => match fn with
    | 0x00 => .ok (.loop (BOp.ofWord w))
    | 0x01 => .ok (.loopn (BOp.ofWord w))
    | _ => .error .unassigned
  | 0x30 => match fn with
    | 0x00 => .ok (.ldb (MOp.ofWord w))
    | 0x01 => .ok (.ldh (MOp.ofWord w))
    | 0x02 => .ok (.ldw (MOp.ofWord w))
    | 0x03 => .ok (.ldd (MOp.ofWord w))
    | 0x04 => .ok (.ldbu (MOp.ofWord w))
    | 0x05 => .ok (.ldhu (MOp.ofWord w))
    | 0x06 => .ok (.ldwu (MOp.ofWord w))
    | 0x08 => .ok (.stb (MOp.ofWord w))
    | 0x09 => .ok (.sth (MOp.ofWord w))
    | 0x0A => .ok (.stw (MOp.ofWord w))
    | 0x0B => .ok (.std (MOp.ofWord w))
    | _ => .error .unassigned
  | 0x40 => match fn with
    | 0x00 => .ok (.setvl (GOp.ofWord w))
    | 0x01 => .ok (.setvli (GOp.ofWord w))
    | 0x02 => .ok (.setvty (GOp.ofWord w))
    | _ => .error .unassigned
  | 0x41 => match fn with
    | 0x00 => .ok (.vadd (GOp.ofWord w))
    | 0x01 => .ok (.vsub (GOp.ofWord w))
    | 0x02 => .ok (.vrsub (GOp.ofWord w))
    | 0x03 => .ok (.vmul (GOp.ofWord w))
    | 0x04 => .ok (.vmulh (GOp.ofWord w))
    | 0x05 => .ok (.vmulhu (GOp.ofWord w))
    | 0x06 => .ok (.vmin (GOp.ofWord w))
    | 0x07 => .ok (.vmax (GOp.ofWord w))
    | 0x08 => .ok (.vminu (GOp.ofWord w))
    | 0x09 => .ok (.vmaxu (GOp.ofWord w))
    | 0x0A => .ok (.vand (GOp.ofWord w))
    | 0x0B => .ok (.vor (GOp.ofWord w))
    | 0x0C => .ok (.vxor (GOp.ofWord w))
    | 0x0D => .ok (.vsll (GOp.ofWord w))
    | 0x0E => .ok (.vsrl (GOp.ofWord w))
    | 0x0F => .ok (.vsra (GOp.ofWord w))
    | 0x10 => .ok (.vsadd (GOp.ofWord w))
    | 0x11 => .ok (.vssub (GOp.ofWord w))
    | 0x12 => .ok (.vsaddu (GOp.ofWord w))
    | 0x13 => .ok (.vssubu (GOp.ofWord w))
    | 0x14 => .ok (.vmacc (GOp.ofWord w))
    | 0x15 => .ok (.vdiv (GOp.ofWord w))
    | 0x16 => .ok (.vdivu (GOp.ofWord w))
    | 0x17 => .ok (.vrem (GOp.ofWord w))
    | 0x18 => .ok (.vremu (GOp.ofWord w))
    | _ => .error .unassigned
  | 0x42 => match fn with
    | 0x00 => .ok (.vcmpeq (GOp.ofWord w))
    | 0x01 => .ok (.vcmpne (GOp.ofWord w))
    | 0x02 => .ok (.vcmplt (GOp.ofWord w))
    | 0x03 => .ok (.vcmpltu (GOp.ofWord w))
    | 0x04 => .ok (.vcmple (GOp.ofWord w))
    | 0x05 => .ok (.vcmpleu (GOp.ofWord w))
    | 0x06 => .ok (.vcmpgt (GOp.ofWord w))
    | 0x07 => .ok (.vcmpgtu (GOp.ofWord w))
    | 0x08 => .ok (.vfcmpeq (GOp.ofWord w))
    | 0x09 => .ok (.vfcmplt (GOp.ofWord w))
    | 0x0A => .ok (.vfcmple (GOp.ofWord w))
    | 0x0B => .ok (.vfcmpun (GOp.ofWord w))
    | _ => .error .unassigned
  | 0x43 => match fn with
    | 0x00 => .ok (.vfadd (GOp.ofWord w))
    | 0x01 => .ok (.vfsub (GOp.ofWord w))
    | 0x02 => .ok (.vfmul (GOp.ofWord w))
    | 0x03 => .ok (.vfdiv (GOp.ofWord w))
    | 0x04 => .ok (.vfsqrt (GOp.ofWord w))
    | 0x05 => .ok (.vfmin (GOp.ofWord w))
    | 0x06 => .ok (.vfmax (GOp.ofWord w))
    | 0x07 => .ok (.vfma (GOp.ofWord w))
    | 0x08 => .ok (.vfms (GOp.ofWord w))
    | 0x09 => .ok (.vfnma (GOp.ofWord w))
    | 0x0A => .ok (.vfabs (GOp.ofWord w))
    | 0x0B => .ok (.vfneg (GOp.ofWord w))
    | 0x0C => .ok (.vfsgnj (GOp.ofWord w))
    | 0x0D => .ok (.vfexp2 (GOp.ofWord w))
    | 0x0E => .ok (.vfclass (GOp.ofWord w))
    | _ => .error .unassigned
  | 0x44 => match fn with
    | 0x00 => .ok (.vcvt (GOp.ofWord w))
    | 0x01 => .ok (.vcvtbfp (GOp.ofWord w))
    | 0x02 => .ok (.vcvtfbp (GOp.ofWord w))
    | _ => .error .unassigned
  | 0x45 => match fn with
    | 0x00 => .ok (.vredsumO (GOp.ofWord w))
    | 0x01 => .ok (.vredsumU (GOp.ofWord w))
    | 0x02 => .ok (.vredsumi (GOp.ofWord w))
    | 0x03 => .ok (.vredmax (GOp.ofWord w))
    | 0x04 => .ok (.vredmin (GOp.ofWord w))
    | 0x05 => .ok (.vredand (GOp.ofWord w))
    | 0x06 => .ok (.vredor (GOp.ofWord w))
    | 0x07 => .ok (.vredxor (GOp.ofWord w))
    | 0x08 => .ok (.vscanO (GOp.ofWord w))
    | 0x09 => .ok (.vscanU (GOp.ofWord w))
    | 0x0A => .ok (.vscani (GOp.ofWord w))
    | 0x0B => .ok (.vtopk (GOp.ofWord w))
    | 0x0C => .ok (.vamax (GOp.ofWord w))
    | _ => .error .unassigned
  | 0x46 => match fn with
    | 0x00 => .ok (.vmv (GOp.ofWord w))
    | 0x01 => .ok (.vmvxs (GOp.ofWord w))
    | 0x02 => .ok (.vmvsx (GOp.ofWord w))
    | 0x03 => .ok (.vbcast (GOp.ofWord w))
    | 0x04 => .ok (.vslup (GOp.ofWord w))
    | 0x05 => .ok (.vsldn (GOp.ofWord w))
    | 0x06 => .ok (.vperm (GOp.ofWord w))
    | 0x07 => .ok (.vcompr (GOp.ofWord w))
    | 0x08 => .ok (.viota (GOp.ofWord w))
    | 0x09 => .ok (.vid (GOp.ofWord w))
    | 0x0A => .ok (.vmerge (GOp.ofWord w))
    | 0x0B => .ok (.vins (GOp.ofWord w))
    | _ => .error .unassigned
  | 0x47 => match fn with
    | 0x00 => .ok (.mand (GOp.ofWord w))
    | 0x01 => .ok (.mor (GOp.ofWord w))
    | 0x02 => .ok (.mxor (GOp.ofWord w))
    | 0x03 => .ok (.mnot (GOp.ofWord w))
    | 0x04 => .ok (.mpopc (GOp.ofWord w))
    | 0x05 => .ok (.mfirst (GOp.ofWord w))
    | 0x06 => .ok (.mset (GOp.ofWord w))
    | 0x07 => .ok (.mmv (GOp.ofWord w))
    | _ => .error .unassigned
  | 0x48 => match fn with
    | 0x00 => .ok (.eset (GOp.ofWord w))
    | 0x01 => .ok (.emv (GOp.ofWord w))
    | _ => .error .unassigned
  | 0x80 => match fn with
    | 0x00 => .ok (.bsset (GOp.ofWord w))
    | 0x01 => .ok (.bsld (GOp.ofWord w))
    | 0x02 => .ok (.bsst (GOp.ofWord w))
    | _ => .error .unassigned
  | 0x81 => match fn with
    | 0x00 => .ok (.dprod (GOp.ofWord w))
    | 0x01 => .ok (.dcorr (GOp.ofWord w))
    | 0x02 => .ok (.dapply (GOp.ofWord w))
    | _ => .error .unassigned
  | 0x82 => match fn with
    | 0x00 => .ok (.azero (GOp.ofWord w))
    | 0x01 => if GOp.ofWord w == { d := 4 } then .ok .agang4 else if GOp.ofWord w == {} then .ok .agang0
      else exact ((GOp.ofWord w).other [.d] && below (GOp.ofWord w).d 8) .agangBad
    | 0x02 => .ok (.adrain (GOp.ofWord w))
    | 0x03 => .ok (.adrainm (GOp.ofWord w))
    | 0x04 => .ok (.aread (GOp.ofWord w))
    | 0x05 => .ok (.awrite (GOp.ofWord w))
    | _ => .error .unassigned
  | 0x90 => match fn with
    | 0x00 => .ok (.vld (MOp.ofWord w))
    | 0x01 => .ok (.vlds (MOp.ofWord w))
    | 0x02 => .ok (.vldx (MOp.ofWord w))
    | 0x03 => .ok (.vgathb (MOp.ofWord w))
    | 0x04 => .ok (.vldr (MOp.ofWord w))
    | 0x08 => .ok (.vst (MOp.ofWord w))
    | 0x09 => .ok (.vsts (MOp.ofWord w))
    | 0x0A => .ok (.vstx (MOp.ofWord w))
    | 0x0C => .ok (.eld (MOp.ofWord w))
    | 0x0D => .ok (.est (MOp.ofWord w))
    | 0x0E => .ok (.mld (MOp.ofWord w))
    | 0x0F => .ok (.mst (MOp.ofWord w))
    | _ => .error .unassigned
  | 0xA0 => match fn with
    | 0x00 => .ok (.amoswap (MOp.ofWord w))
    | 0x01 => .ok (.amocas (MOp.ofWord w))
    | 0x02 => .ok (.amoadd (MOp.ofWord w))
    | 0x03 => .ok (.amoand (MOp.ofWord w))
    | 0x04 => .ok (.amoor (MOp.ofWord w))
    | 0x05 => .ok (.amoxor (MOp.ofWord w))
    | 0x06 => .ok (.amomin (MOp.ofWord w))
    | 0x07 => .ok (.amomax (MOp.ofWord w))
    | 0x08 => .ok (.amominu (MOp.ofWord w))
    | 0x09 => .ok (.amomaxu (MOp.ofWord w))
    | 0x0A => .ok (.amofadd (MOp.ofWord w))
    | 0x0B => .ok (.amofmax (MOp.ofWord w))
    | 0x0C => .ok (.amoincw (MOp.ofWord w))
    | 0x0D => .ok (.amoaddb (MOp.ofWord w))
    | _ => .error .unassigned
  | 0xA1 => match fn with
    | 0x00 => .ok (.vamo (MOp.ofWord w))
    | 0x01 => .ok (.vfas (MOp.ofWord w))
    | _ => .error .unassigned
  | 0xB0 => match fn with
    | 0x00 => .ok (.copy (EOp.ofWord w))
    | 0x01 => .ok (.copycv (EOp.ofWord w))
    | 0x02 => .ok (.copyseg (EOp.ofWord w))
    | 0x03 => .ok (.wsload (EOp.ofWord w))
    | 0x04 => .ok (.mkout (EOp.ofWord w))
    | _ => .error .unassigned
  | 0xB1 => match fn with
    | 0x00 => .ok (.rinit (GOp.ofWord w))
    | 0x01 => .ok (.rawait (GOp.ofWord w))
    | 0x02 => .ok (.rrel (GOp.ofWord w))
    | 0x03 => .ok (.rpeek (GOp.ofWord w))
    | _ => .error .unassigned
  | 0xB2 => match fn with
    | 0x00 => .ok (.son (GOp.ofWord w))
    | 0x01 => .ok (.soff (GOp.ofWord w))
    | 0x02 => .ok (.sstat (GOp.ofWord w))
    | _ => .error .unassigned
  | 0xB3 => match fn with
    | 0x00 => .ok (.binit (EOp.ofWord w))
    | 0x01 => .ok (.bapp (EOp.ofWord w))
    | 0x02 => .ok (.breplay (EOp.ofWord w))
    | 0x03 => .ok (.bflush (EOp.ofWord w))
    | _ => .error .unassigned
  | 0xB4 => match fn with
    | 0x00 => .ok (.apld (GOp.ofWord w))
    | 0x01 => .ok (.apst (GOp.ofWord w))
    | 0x02 => .ok (.apset (GOp.ofWord w))
    | _ => .error .unassigned
  | 0xC0 => match fn with
    | 0x00 => .ok (.ralloc (GOp.ofWord w))
    | 0x01 => .ok (.vfork (GOp.ofWord w))
    | 0x02 => .ok (.vnarrow (GOp.ofWord w))
    | 0x03 => .ok (.vsplit (GOp.ofWord w))
    | 0x04 => .ok (.vdrop (GOp.ofWord w))
    | 0x05 => .ok (.vinfo (GOp.ofWord w))
    | 0x06 => .ok (.vexport (GOp.ofWord w))
    | 0x07 => .ok (.vimport (GOp.ofWord w))
    | _ => .error .unassigned
  | 0xC1 => match fn with
    | 0x00 => .ok (.hgload (GOp.ofWord w))
    | 0x01 => .ok (.hggrad (GOp.ofWord w))
    | 0x02 => .ok (.hgcell (GOp.ofWord w))
    | _ => .error .unassigned
  | 0xC8 => match fn with
    | 0x00 => exact (GOp.ofWord w == {}) .endTask
    | 0x01 => .ok (.launch (GOp.ofWord w))
    | 0x02 => exact (GOp.ofWord w == {}) .yieldpt
    | 0x03 => .ok (.wmark (GOp.ofWord w))
    | 0x04 => .ok (.barj (GOp.ofWord w))
    | 0x05 => .ok (.bara (GOp.ofWord w))
    | 0x06 => .ok (.barw (GOp.ofWord w))
    | 0x07 => .ok (.barl (GOp.ofWord w))
    | 0x08 => .ok (.drain (GOp.ofWord w))
    | 0x09 => .ok (.sleepu (GOp.ofWord w))
    | _ => .error .unassigned
  | 0xC9 => match fn with
    | 0x00 => .ok (.fence (GOp.ofWord w))
    | 0x01 => fenceRoOf (GOp.ofWord w)
    | 0x02 => exact (GOp.ofWord w == {}) .fenceI
    | _ => .error .unassigned
  | 0xD0 => match fn with
    | 0x00 => .ok (.csrr (GOp.ofWord w))
    | 0x01 => .ok (.csrw (GOp.ofWord w))
    | 0x02 => .ok (.csrs (GOp.ofWord w))
    | 0x03 => .ok (.csrc (GOp.ofWord w))
    | _ => .error .unassigned
  | 0xD1 => match fn with
    | 0x00 => .ok (.ecall (GOp.ofWord w))
    | 0x01 => .ok (.brk (GOp.ofWord w))
    | 0x02 => exact (GOp.ofWord w == {}) .tret
    | 0x03 => .ok (.tlbinv (GOp.ofWord w))
    | 0x04 => exact (GOp.ofWord w == {}) .wfi
    | _ => .error .unassigned
  | 0xE0 => match fn with
    | 0x00 => .ok (.vsegld (MOp.ofWord w))
    | 0x01 => exact (GOp.ofWord w).dfanOk .dfan
    | 0x02 => exact (MOp.ofWord w).vld1kOk .vld1k
    | _ => .error .unassigned
  | _ => .error .unassigned

/-- Decode one slot word (R41). -/
def decode (w : SlotWord) : Except DecodeError Instr :=
  match ofCode (w.extractLsb' 88 8).toNat (w.extractLsb' 80 6).toNat w with
  | .error e => .error e
  | .ok i => if i.WellFormed then .ok i else .error .illegalField

/-- The 96 bits of the first twelve bytes, byte 0 lowest; missing bytes read as zero (R26). -/
def wordOfBytes : Nat → List Byte → Nat
  | 0, _ => 0
  | _ + 1, [] => 0
  | k + 1, b :: bs => b.toNat + 256 * wordOfBytes k bs

/-- Decode the instruction at the head of a list of bytes, and the bytes after it. -/
def decodeBytes (bs : List Byte) : Except DecodeError (Instr × List Byte) :=
  match decode (BitVec.ofNat 96 (wordOfBytes 12 bs)) with
  | .error e => .error e
  | .ok i => .ok (i, bs.drop 12)

/-- The instruction read from a word whose bits are `w`, as spec/opcode_table.json numbers them: a slot word is
stored little-endian (R26), so bit 0 is bit 0 of its first byte, and the bits at and above `nbits` are zero. -/
def decodeTableWord (nbits w : Nat) : Option Instr :=
  match decode (BitVec.ofNat 96 (w % 2 ^ nbits)) with
  | .ok i => some i
  | .error _ => none

/-- The 82 bits of an instruction's fields in place, OPC and FN zero (R36). -/
def Body.bits : Body → Nat
  | .g o => o.form.toNat <<< 86 ||| o.d.toNat <<< 74 ||| o.a.toNat <<< 68 ||| o.b.toNat <<< 62 ||| o.c.toNat <<< 56
      ||| o.msk.toNat <<< 53 ||| o.mz.toNat <<< 52 ||| o.fl.toNat <<< 48 ||| o.x.toNat <<< 32 ||| o.imm.toNat
  | .b o => o.form.toNat <<< 86 ||| o.d.toNat <<< 74 ||| o.a.toNat <<< 68 ||| o.b.toNat <<< 62 ||| o.z1.toNat <<< 48
      ||| o.z2.toNat <<< 33 ||| o.likely.toNat <<< 32 ||| o.loff.toNat <<< 3 ||| o.tslot.toNat
  | .m o => o.form.toNat <<< 86 ||| o.d.toNat <<< 74 ||| o.a.toNat <<< 68 ||| o.b.toNat <<< 62 ||| o.c.toNat <<< 56
      ||| o.msk.toNat <<< 53 ||| o.mz.toNat <<< 52 ||| o.h.toNat <<< 51 ||| o.nf.toNat <<< 50 ||| o.ro.toNat <<< 49
      ||| o.rot.toNat <<< 48 ||| o.ord.toNat <<< 46 ||| o.scope.toNat <<< 43 ||| o.ixw.toNat <<< 40
      ||| o.aux.toNat <<< 32 ||| o.ofs.toNat
  | .e o => o.form.toNat <<< 86 ||| o.d.toNat <<< 74 ||| o.a.toNat <<< 68 ||| o.b.toNat <<< 62 ||| o.c.toNat <<< 56
      ||| o.z.toNat <<< 52 ||| o.fl.toNat <<< 48 ||| o.cmod.toNat <<< 39 ||| o.rv.toNat <<< 38 ||| o.rs.toNat <<< 32
      ||| o.imm.toNat

/-- The slot word of an instruction (R34, R36, R39); an event has none. -/
def encode (i : Instr) : Option SlotWord :=
  match i.code with
  | none => none
  | some (opc, fn, body) => some (BitVec.ofNat 96 (opc.toNat <<< 88 ||| fn.toNat <<< 80 ||| body.bits))

end Sys2Proof
end

