-- ==== Sys2Proof/Machine/Fetch.lean ====
section
/-!
DEFINITION. The fetch of a line, the checks at issue and transfers of control (01:R8, R14; 02:R26 to R33).
-/

namespace Sys2Proof.Machine

/-- A fetched line. -/
structure Line where
  target : Target
  data : CachedLine
  deriving DecidableEq, Repr

/-- What the fetch of a line answers. -/
inductive Fetched where
  | line (l : Line)
  | trap (t : Trap)
  | absent (bad : Bool)
  deriving DecidableEq, Repr

def Hart.fetchReq (h : Hart) : Req := { place := h.place, asid := h.accessAsid, exec := true }

/-- The address lies in the body that the buffer replays. -/
def LoopBuffer.covers (b : LoopBuffer) (pc : Word) : Bool := b.first.toNat ≤ pc.toNat && (pcLine pc).toNat ≤ b.last.toNat

/-- The line that the hart's loop buffer holds for a PC, whose bytes its die reads at `src` (R74). -/
def Hart.loopLine (h : Hart) (pc : Word) (src : Nat) : Option CachedLine :=
  h.loop.bind fun b => if b.covers pc then b.held.find? (·.holds h.place src) else none

/-- A taken LOOP or LOOPN to a target in its own line or in one of the 15 before it replays its body: the slot's loop buffer takes it,
and keeps what it holds of the same body (R74, R283; notes/assumptions/96.md). -/
def Hart.enterLoop (h : Hart) (target : Word) : Hart :=
  let first := pcLine target
  let last := pcLine h.pc
  if first.toNat ≤ last.toNat && decide (last.toNat ≤ first.toNat + 15 * 64) then
    { h with loop := some { first, last, held := match h.loop with
        | some b => if b.first = first ∧ b.last = last then b.held else []
        | none => [] } }
  else h

/-- The line at a PC as the hart sees it: its loop buffer's copy, else its core's, else memory (R14, R33, R74, R213). Line 0 is never
executable (R13). -/
def State.fetch (s : State) (pc : Word) : Fetched :=
  let q := s.hart.fetchReq
  if pcLine pc = 0 then .trap { cause := .protection }
  else
  match s.locate q (pcLine pc) with
  | .error t => .trap t
  | .ok (.absent bad) => .absent bad
  | .ok (.at_ t) =>
    let src := s.readAddr q t
    .line { target := t, data := ((s.hart.loopLine pc src).or (s.fetched.find? (·.holds q.place src))).getD (s.snapshot q t) }

/-- The line word (R27). -/
def Line.word (l : Line) : Nat := l.data.bits / 2 ^ 480 % 2 ^ 32

/-- The 96 bits of a slot (R26). -/
def Line.slot (l : Line) (k : Nat) : SlotWord := BitVec.ofNat 96 (l.data.bits / 2 ^ (96 * k))

/-- TGT of a slot. -/
def Line.isTarget (l : Line) (k : Nat) : Bool := l.word.testBit k

def Line.lparOk (l : Line) : Bool := popCount 15 l.word % 2 == 0

def Line.reservedOk (l : Line) : Bool := l.word < 2 ^ 15

def Line.sparOk (l : Line) (k : Nat) : Bool :=
  (popCount 96 (l.slot k).toNat + (if l.word.testBit (9 + k) then 1 else 0)) % 2 == 0

/-- The checks of R32 on a slot about to issue, in their order. -/
def checkIssue (pc : Word) (l : Line) : Except Trap Instr :=
  let lineAddr := pcLine pc
  match l.data.poison with
  | k :: _ => .error { cause := .poisonedData, addr := lineAddr + word (8 * k) }
  | [] =>
    if !l.lparOk then .error { cause := .lineParity, addr := lineAddr, info := word (l.word + 2 ^ 32) }
    else if !l.reservedOk then .error { cause := .malformedLine, addr := lineAddr, info := word l.word }
    else if !l.sparOk (pcSlot pc) then .error { cause := .lineParity, addr := lineAddr, info := word l.word }
    else
      match decode (l.slot (pcSlot pc)) with
      | .ok i => .ok i
      | .error _ => .error { cause := .illegalInstruction }

/-- The hart's loop buffer with a fetched line of its body; a fetch outside the body ends the replay (R74). -/
def Hart.loopAfter (h : Hart) (l : CachedLine) : Option LoopBuffer :=
  h.loop.bind fun b =>
    if !b.covers h.pc then none
    else some (if b.held.any (·.holds h.place l.address) then b else { b with held := l :: b.held })

/-- The fetch reaches the core: the page-table entry is touched, the core keeps the line, and so does the loop buffer, unless that has
served it (R74, R213, R229). -/
def State.keepLine (s : State) (l : Line) : State :=
  let h := s.hart
  let s := s.touch h.fetchReq l.target
  { s with
    hart := { s.hart with loop := h.loopAfter l.data }
    fetched := if (h.loopLine h.pc l.data.address).isSome then s.fetched else keepUsed h.place l.data s.fetched }

/-- Fetch and check the slot at the hart's PC; a trap carries SEQF when control arrived in sequence (R20). -/
def fetchInstr : Op Instr := do
  let s ← get
  let raise (t : Trap) : Op Instr := throw (.trap { t with seqf := s.hart.sequential })
  match s.fetch s.hart.pc with
  | .trap t => raise t
  | .absent bad =>
    fun s' =>
      match (pageFault (α := Instr) s.hart.fetchReq 1 [{ va := pcLine s.hart.pc, bad }]) s' with
      | .error (.trap t) s'' => .error (.trap { t with seqf := s.hart.sequential }) s''
      | r => r
  | .line l =>
    set (s.keepLine l)
    match checkIssue s.hart.pc l with
    | .ok i => pure i
    | .error t => raise t

/-- Case 3 of R28: the target line is fetched without an error of its own and its slot's TGT bit is clear. -/
def State.refusesTarget (s : State) (t : Word) : Bool :=
  match s.fetch t with
  | .line l => l.data.poison.isEmpty && l.lparOk && l.reservedOk && !l.isTarget (pcSlot t)
  | _ => false

/-- The hart's deadline has passed, it runs its task, and it stands at a target slot: it goes no further (R29, R375). -/
def State.atStop (s : State) : Bool :=
  let h := s.hart
  h.run == .running && !h.firmware && h.csr.preempt.getLsbD 0 && (h.deadline.elim false fun d => decide (d ≤ s.cycle)) &&
  h.faulting.isNone && h.launched.isNone &&
  match s.fetch h.pc with
  | .line l => l.isTarget (pcSlot h.pc)
  | _ => false

/-- A transfer to a value (R28): when it completes, `commit` takes effect. -/
def transfer (t : Word) (commit : Op Unit) : Op Flow := do
  trapIf (!isPc t) .illegalBranchTarget t
  let s ← get
  trapIf (s.refusesTarget t) .illegalBranchTarget t
  commit
  pure (.goto t)

/-- The transfer that closes a loop (R73, R74, R282). -/
def loopTo (t : Word) (commit : Op Unit) : Op Flow :=
  transfer t (do
    commit
    modHart (·.enterLoop t))

end Sys2Proof.Machine
end

