-- ==== Sys2Proof/Machine/Control.lean ====
section
/-!
DEFINITION. Branches, jumps and loops (02:R28, R36; 04:R71 to R74; 15:R282, R283).
-/

namespace Sys2Proof.Machine

/-- A conditional branch: taken, it transfers to the fixed target (R71). -/
def branch (i : Instr) (o : BOp) (cond : Word → Word → Bool) (s : State) : Host.Outcome State Fault Refusal :=
  finish i (do
    auReads [o.a, o.b]
    let h := (← get).hart
    if cond (h.getX o.a) (h.getX o.b) then transfer (fixedTarget h.pc o.loff o.tslot) (pure ())
    else pure .next) s

def execBeq (o : BOp) (s : State) := branch (.beq o) o (fun a b => a == b) s
def execBne (o : BOp) (s : State) := branch (.bne o) o (fun a b => a != b) s
def execBlt (o : BOp) (s : State) := branch (.blt o) o (fun a b => a.slt b) s
def execBge (o : BOp) (s : State) := branch (.bge o) o (fun a b => !a.slt b) s
def execBltu (o : BOp) (s : State) := branch (.bltu o) o (fun a b => a.ult b) s
def execBgeu (o : BOp) (s : State) := branch (.bgeu o) o (fun a b => !a.ult b) s

/-- Link and transfer (R72). -/
def jump (d : Reg) (t : Word) : Op Flow := do
  let link := nextPc (← get).hart.pc
  transfer t (setX d link)

def execJal (o : BOp) (s : State) : Host.Outcome State Fault Refusal :=
  finish (.jal o) (do jump o.d (fixedTarget (← get).hart.pc o.loff o.tslot)) s

/-- The target is a + (n ≪ 6) (R72). -/
def execJalr (o : BOp) (s : State) : Host.Outcome State Fault Refusal :=
  finish (.jalr o) (do
    auReads [o.a]
    jump o.d ((← get).hart.getX o.a + (o.loff.signExtend 64) <<< 6)) s

/-- The counted loop (R73): a refused transfer leaves the counter. -/
def execLoop (o : BOp) (s : State) : Host.Outcome State Fault Refusal :=
  finish (.loop o) (do
    auReads [o.a]
    let h := (← get).hart
    let n := h.getX o.a - 1
    if n = 0 then do
      setX o.a 0
      pure .next
    else loopTo (fixedTarget h.pc o.loff o.tslot) (setX o.a n)) s

/-- The indices after one pass of a nest, from dimension `j` on, and whether the body runs again (R282). -/
def nestStep (p : APReg) : Nat → Nat → Vector Word 6 → Vector Word 6 × Bool
  | 0, _, idx => (idx, false)
  | left + 1, j, idx =>
    let n := idx.getD j 0 + 1
    if n.toNat < APReg.count p j then (idx.setIfInBounds j n, true)
    else nestStep p left (j + 1) (idx.setIfInBounds j 0)

def execLoopn (o : BOp) (s : State) : Host.Outcome State Fault Refusal :=
  finish (.loopn o) (do
    let h := (← get).hart
    let p := h.getAP o.a.toNat
    let dims := APReg.dims p
    illegalIf (dims = 0 || 6 < dims || (List.range dims).any fun j => APReg.count p j == 0)
    let (idx, again) := nestStep p dims 0 h.csr.lidx
    let commit := modCsr fun c => { c with lidx := idx }
    if again then loopTo (fixedTarget h.pc o.loff o.tslot) commit
    else do
      commit
      pure .next) s

end Sys2Proof.Machine
end

