-- ==== Sys2Proof/Machine/Diagonal.lean ====
section
/-!
DEFINITION. The diagonal engine: bands, the three pairings, accumulators and drains, OPC 0x80 to 0x82 but for ADRAINM
(08:R153 to R171; 09:R173 to R186).
-/

namespace Sys2Proof.Machine

/-! Band-shape registers (R155). -/

/-- The reserved bits of a band register, cleared (R155, R174, R175). -/
def cleanBand (v : Nat) : EReg := BitVec.ofNat 256 (putBits (putBits (v % 2 ^ 160) 19 13 0) 15 1 0)

def execBsset (o : GOp) (s : State) : Host.Outcome State Fault Refusal :=
  finishNext (.bsset o) (modHart fun h => h.setBS o.d.toNat
    (cleanBand ((h.getX o.a).toNat + 2 ^ 64 * (h.getX o.b).toNat + 2 ^ 128 * ((h.getX o.c).toNat % 2 ^ 32)))) s

/-- BSLD and BSST are scalar accesses of 32 bytes (R175). -/
def execBsld (o : GOp) (s : State) : Host.Outcome State Fault Refusal :=
  finishNext (.bsld o) (do
    auReads [o.a]
    let v ← loadAt (.plain ((← get).x o.a)) o.imm.toInt 32
    modHart (·.setBS o.d.toNat (cleanBand v))) s

def execBsst (o : GOp) (s : State) : Host.Outcome State Fault Refusal :=
  finishNext (.bsst o) (do
    auReads [o.a]
    let s ← get
    storeAt (.plain (s.x o.a)) o.imm.toInt 32 (cleanBand (s.hart.getBS o.c.toNat).toNat).toNat) s

/-- How a band is held (R155, R156). -/
structure Band where
  base : Nat
  count : Nat
  /-- 0 straight, 1 wrapped, 2 constant. -/
  mode : Nat
  halo : Bool
  step : Nat
  off0 : Int
  row0 : Nat
  nrows : Nat
  ncols : Nat
  deriving DecidableEq, Repr

def bandOf (r : EReg) : Band :=
  let v := r.toNat
  { base := bitsAt v 0 6, count := bitsAt v 6 9, mode := bitsAt v 16 2, halo := r.getLsbD 18, step := bitsAt v 32 8
    off0 := toSigned 24 (bitsAt v 40 24), row0 := bitsAt v 64 32, nrows := bitsAt v 96 32, ncols := bitsAt v 128 32 }

/-- The key of entry k (R156). -/
def Band.key (b : Band) (k : Nat) : Int := b.off0 + (k * b.step : Nat)

/-- The entry at a row and a column lies in the band's matrix. -/
def Band.inside (b : Band) (row col : Int) : Bool :=
  decide (0 ≤ row) && decide (row < b.nrows) && decide (0 ≤ col) && decide (col < b.ncols)

/-- Registers of a window. -/
def Band.perWindow (b : Band) : Nat := if b.halo then 2 else 1

/-- The three pairings, by their FN (R177). -/
inductive Pairing where
  | dprod | dcorr | dapply
  deriving DecidableEq, Repr

def Pairing.fn : Pairing → Nat
  | .dprod => 0
  | .dcorr => 1
  | .dapply => 2

/-- One diagonal instruction with its bands, its window and its accumulator. -/
structure Run where
  kind : Pairing
  fmt : Nat
  scl : Bool
  /-- W (R154). -/
  w : Nat
  a : Band
  b : Band
  t : Band
  tile : Tile
  pair : Bool
  deriving DecidableEq, Repr

/-- The formats of R154. -/
def engineFmt (fmt : Nat) : Bool := fmt == 0 || fmt == 1 || fmt == 0x18 || (8 ≤ fmt && fmt ≤ 0x0C && fmt != 0x0A) || isBfp fmt

/-- Elements of a window (R153, R154). -/
def windowOf (fmt : Nat) : Nat := 2048 / container fmt

/-- The slots of an accumulator (R164, R166). -/
def Tile.slots (t : Tile) : Nat := (if t.gang then 4 else 1) * (16384 / t.win)

/-- Its cells. -/
def Tile.size (t : Tile) : Nat := if t.gang then 65536 else 16384

/-- The run takes indices modulo W (R163, R178). -/
def Run.wrapped (r : Run) : Bool :=
  match r.kind with
  | .dapply => r.a.mode == 1
  | _ => r.t.mode == 1

/-- The pairs (k, l) that the instruction multiplies; for DCORR l is the target's slot (R158, R159). -/
def Run.cols (r : Run) : Nat := if r.kind = .dcorr then r.t.count else r.b.count

/-- A entries of the leader's and the follower's half (R167). -/
def Run.halves (r : Run) : List (Nat × Nat) :=
  if r.pair then [(0, (r.a.count + 1) / 2), ((r.a.count + 1) / 2, r.a.count / 2)] else [(0, r.a.count)]

/-- What R157 asks of a band that supplies windows. -/
def Run.operandOk (r : Run) (b : Band) : Bool :=
  1 ≤ b.count && b.count ≤ (if r.pair then 32 else 16) && b.step != 0 && b.mode != 3 &&
  b.base + b.count * b.perWindow ≤ 64 && !(b.halo && (b.base % 2 == 1 || b.mode != 0)) &&
  (b.mode != 1 || (b.row0 == 0 && b.nrows == r.w && b.ncols == r.w))

/-- What R157 asks of the target. -/
def Run.targetOk (r : Run) : Bool :=
  let keys := (List.range r.t.count).map fun k => (r.t.key k % r.w).toNat
  1 ≤ r.t.count && r.t.step != 0 && r.t.mode ≤ 1 && !r.t.halo && r.t.row0 == r.a.row0 && r.t.count ≤ r.tile.slots &&
  (r.t.mode != 1 || (r.t.nrows == r.w && r.t.ncols == r.w && r.t.row0 == 0 && (sortDistinct keys).length == r.t.count))

/-- A band of a wrapped run covers the W rows from row 0 (R178). -/
def Run.whole (r : Run) (b : Band) : Bool := b.row0 == 0 && b.nrows == r.w && !b.halo

/-- The modes of R178. -/
def Run.modesOk (r : Run) : Bool :=
  match r.kind with
  | .dprod => !r.a.halo && (if r.wrapped then r.a.mode == 1 && r.b.mode == 1 else r.a.mode != 1 && r.b.mode != 1)
  | .dcorr =>
    r.a.mode == 0 && !r.a.halo && r.b.mode == 0 && r.b.count == r.a.count &&
    (!r.wrapped || (r.whole r.a && r.whole r.b))
  | .dapply =>
    !r.a.halo && r.b.mode == 0 && r.t.mode == 0 && r.t.count == r.b.count && r.t.off0 == r.b.off0 && r.t.step == r.b.step &&
    (!r.wrapped || (r.whole r.b && r.whole r.t))

/-- The checks of R157, R159 and R178. -/
def Run.legal (r : Run) : Bool :=
  r.operandOk r.a && r.operandOk r.b && r.targetOk && r.modesOk && decide (r.cols ≤ if r.pair then 32 else 16) &&
  r.halves.all fun p => p.2 * r.cols ≤ 256

/-! The fate of a product (R160, R163). -/

inductive Fate where
  | zero
  | shift
  | fill
  | valid (slot : Nat)
  deriving DecidableEq, Repr

/-- A row or a key as the run takes it. -/
def Run.reduce (r : Run) (i : Int) : Int := if r.wrapped then i % r.w else i

/-- The B row of product (k, l) at row i. -/
def Run.bRow (r : Run) (k l : Nat) (i : Int) : Int :=
  r.reduce (i + if r.kind = .dcorr then r.t.key l else r.a.key k)

/-- The B entry of product (k, l). -/
def Run.bEntry (r : Run) (k l : Nat) : Nat := if r.kind = .dcorr then k else l

/-- The column of the A entry, the B entry and the target entry. -/
def Run.columns (r : Run) (k l : Nat) (i : Int) : Int × Int × Int :=
  match r.kind with
  | .dprod => (r.reduce (i + r.a.key k), r.reduce (r.bRow k l i + r.b.key l), r.reduce (i + r.a.key k + r.b.key l))
  | .dcorr => (r.a.key k, r.b.key k, r.reduce (i + r.t.key l))
  | .dapply => (r.reduce (i + r.a.key k), r.b.key l, r.b.key l)

/-- The slot that takes product (k, l). -/
def Run.slot? (r : Run) (k l : Nat) : Option Nat :=
  match r.kind with
  | .dprod => (List.range r.t.count).find? fun n => r.reduce (r.t.key n) == r.reduce (r.a.key k + r.b.key l)
  | _ => some l

def Run.fate (r : Run) (k l : Nat) (i : Int) : Fate :=
  let (ca, cb, ct) := r.columns k l i
  let row := r.bRow k l i
  if !(r.a.inside i ca && r.b.inside row cb && r.t.inside i ct) then .zero
  else if !r.wrapped && r.b.mode != 2 && !(decide ((r.b.row0 : Int) ≤ row) && decide (row < r.b.row0 + (r.w * r.b.perWindow : Nat)))
  then .shift
  else
    match r.slot? k l with
    | none => .fill
    | some n => .valid n

/-- A product of the instruction: its entries and its row's place in the window. -/
structure Product where
  k : Nat
  l : Nat
  j : Nat
  fate : Fate
  deriving DecidableEq, Repr

/-- The products that are no structural zeros, in the order of R179. -/
def Run.products (r : Run) : List Product :=
  ((List.range r.a.count).map fun k => (List.range r.cols).map fun l => (List.range r.w).filterMap fun (j : Nat) =>
    let f := r.fate k l ((r.a.row0 + j : Nat) : Int)
    if f = .zero then none else some { k, l, j, fate := f : Product }).flatten.flatten

/-- EINFO of the first offending product (R361). -/
def Run.info (r : Run) (p : Product) : Word :=
  word (r.kind.fn * 2 ^ 48 + p.k * 2 ^ 40 + p.l % 256 * 2 ^ 32 + (r.a.row0 + p.j) % 2 ^ 32)

/-! Arithmetic (R154, R162). -/

/-- The two factors of a product. `fa` and `fb` are the files that A's and B's windows are read from (R167). -/
def Run.factors (r : Run) (fa fb : VFile) (p : Product) : Val × Val :=
  let c := container r.fmt
  let at_ (f : VFile) (reg j : Nat) : Val := elemValue r.fmt r.scl (f.exponent reg c j) (elemAt c (f.reg reg) j)
  let idx := (r.bRow p.k p.l ((r.a.row0 + p.j : Nat) : Int) - r.b.row0).toNat
  let reg := r.b.base + r.b.perWindow * r.bEntry p.k p.l
  (at_ fa (r.a.base + p.k) (if r.a.mode = 2 then 0 else p.j),
   if r.b.mode = 2 then at_ fb reg 0 else at_ fb (reg + idx / r.w) (idx % r.w))

/-- Add one product into a cell (R162). A zero product of BFP factors of unlike signs is −0, as of other factors (DESIGN CHOICE,
notes/assumptions/103.md). -/
def Run.accumulate (r : Run) (cell : BitVec 32) (x y : Val) : BitVec 32 × Flags :=
  if isFp r.fmt || isBfp r.fmt then
    let (p, f1) := x.mul y
    let (bits, f2) := addStep { mode := .rne } cell.toNat p
    (BitVec.ofNat 32 bits, f1 ||| f2)
  else
    match x, y with
    | .fin n m _, .fin n' m' _ =>
      (cell + BitVec.ofInt 32 ((if n then -(m : Int) else m) * (if n' then -(m' : Int) else m')), 0)
    | _, _ => (cell, 0)

/-- The cells after the products of A entries `lo` to `lo + n - 1`, each cell's in the order of R162. -/
def Run.addInto (r : Run) (fa fb : VFile) (products : List Product) (lo n : Nat) (cells : Store (BitVec 32)) :
    Store (BitVec 32) × Flags :=
  let mine := products.filter fun p => decide (lo ≤ p.k) && decide (p.k < lo + n)
  mine.foldl (fun acc p =>
    match p.fate with
    | .valid slot =>
      let at_ := slot * r.w + p.j
      let (x, y) := r.factors fa fb p
      let (v, fl) := r.accumulate (acc.1.get 0 at_) x y
      (acc.1.set 0 at_ v, acc.2 ||| fl)
    | _ => acc) (cells, 0)

/-! The toggle estimate (R169). -/

/-- The registers of a band's entries `lo` to `lo + n - 1`. -/
def Band.registers (b : Band) (f : VFile) (lo n : Nat) : List VReg :=
  (List.range (n * b.perWindow)).map fun k => f.v.getD (b.base + lo * b.perWindow + k) 0

/-- The registers that each step of one core's share carries. -/
def Run.steps (r : Run) (fa fb : VFile) (lo n : Nat) : List PrevStep :=
  let one (lo n : Nat) : PrevStep :=
    { a := r.a.registers fa lo n
      b := if r.kind = .dcorr then r.b.registers fb lo n else r.b.registers fb 0 r.b.count }
  if n = 0 then []
  else if n * r.cols ≤ 192 then [one lo n]
  else [one lo ((n + 1) / 2), one (lo + (n + 1) / 2) (n / 2)]

/-- Differing sampled bits between two registers. -/
def toggles (c : Nat) (x y : VReg) : Nat :=
  (List.range (2048 / c / 16)).foldl (fun n k => n + popCount c (bitsAt (x ^^^ y).toNat (16 * k * c) c)) 0

def togglesList (c : Nat) (l prev : List VReg) : Nat :=
  (List.range l.length).foldl (fun n k => n + toggles c (l.getD k 0) (prev.getD k 0)) 0

/-- E of a step against the step before it. -/
def toggleEstimate (c : Nat) (step prev : PrevStep) : Nat :=
  let n := (step.a.length + step.b.length) * (2048 / c / 16) * c
  255 * (togglesList c step.a prev.a + togglesList c step.b prev.b) / n

/-- The steps of one core: each charges its E to the die; the last E is answered. -/
def State.charge (s : State) (die core c : Nat) (steps : List PrevStep) : State × Option Nat :=
  steps.foldl (fun acc step =>
    let s := acc.1
    let key := coreKey die core
    let e := toggleEstimate c step (s.steps.get {} key)
    let d := s.die die
    ({ s.setDie die { d with charged := d.charged + e } with steps := s.steps.set {} key step }, some e)) (s, none)

/-! The pairings (R179). -/

/-- The run that a diagonal instruction of a hart asks for, if its accumulator is mapped. -/
def Hart.run? (h : Hart) (kind : Pairing) (o : GOp) : Option Run :=
  let c := h.cfg
  match h.getAC o.d.toNat with
  | .mapped t =>
    some { kind, fmt := c.fmt, scl := c.scl, w := windowOf c.fmt, a := bandOf (h.getBS o.a.toNat),
           b := bandOf (h.getBS o.b.toNat), t := bandOf (h.getBS o.c.toNat), tile := t, pair := h.pair }
  | _ => none

/-- The issue checks on the format, the accumulator and the bands. -/
def Hart.diagonalLegal (h : Hart) (kind : Pairing) (o : GOp) : Option Run :=
  (h.run? kind o).filter fun r => engineFmt r.fmt && r.w == r.tile.win && r.legal

/-- The product that stops the instruction: the first that meets shift range, or fill-in under .trap. -/
def Run.offender (r : Run) (ftrap : Bool) : Option Product :=
  r.products.find? fun p => p.fate == .shift || (ftrap && p.fate == .fill)

/-- The products that are dropped (R163). -/
def Run.drops (r : Run) : Nat := r.products.countP (·.fate == .fill)

/-- The effect of an instruction that has passed its issue checks (R162, R167, R169, R179). On a pair task TOGEST is that of the leader
core's last step (DESIGN CHOICE, notes/assumptions/102.md). -/
def State.runDiagonal (s : State) (ac : Nat) (r : Run) : State :=
  let h := s.hart
  let products := r.products
  let halves := r.halves
  let lead := halves.headD (0, 0)
  let follow := halves.getD 1 (0, 0)
  let farB := if r.kind = .dcorr then h.far else h.own
  let (cells, f1) := r.addInto h.own h.own products lead.1 lead.2 r.tile.cells
  let (farCells, f2) := r.addInto h.far farB products follow.1 follow.2 r.tile.farCells
  let c := container r.fmt
  let (s, e) := s.charge h.place.die h.place.core c (r.steps h.own h.own lead.1 lead.2)
  let (s, _) := s.charge h.place.die (h.place.core + 1) c (r.steps h.far farB follow.1 follow.2)
  let h := h.setAC ac (.mapped { r.tile with cells, farCells })
  { s with hart := { h with csr := { h.csr with
      dgdrop := word (min 0xFFFFFFFF (h.csr.dgdrop.toNat + r.drops))
      fflags := h.csr.fflags ||| (f1 ||| f2).setWidth 64
      togest := word (e.getD 0) } } }

/-- The window registers that are read from the hart's own file: the leader's A entries, and the B entries but those that
DCORR takes on the follower core (R167). -/
def Run.ownWindows (r : Run) : List Nat :=
  let lead := (r.halves.headD (0, 0)).2
  sortDistinct ((List.range (lead * r.a.perWindow)).map (r.a.base + ·) ++
    (List.range ((if r.kind = .dcorr then lead else r.b.count) * r.b.perWindow)).map (r.b.base + ·))

/-- The size in bytes of the elements that a stream must supply for a window, and their number (R278). -/
def windowElems (fmt : Nat) : Nat × Nat :=
  let c := container fmt
  if c < 8 then (1, 256) else (c / 8, 2048 / c)

/-- The window registers that stream, each popped once: their data stand in the registers while the instruction runs (R278). -/
def popWindows (r : Run) : Op (List (Nat × Stream)) := do
  let h := (← get).hart
  let (size, n) := windowElems r.fmt
  let streams := r.ownWindows.filterMap fun k => (h.stream k).map fun st => (k, st)
  trapIf (streams.any fun p => APReg.size p.2.pattern != size) .streamMisuse 0 2
  let data ← streams.mapM fun p => do return (p.1, ← popData p.1 n p.2)
  modHart fun h => { h with own := data.foldl (fun f p => f.setReg p.1 p.2) h.own }
  modHart fun h => { (streams.foldl (fun h p => h.setStream p.1 (some (p.2.advance n))) h) with
    counters := (h.countStreamWaits (streams.countP fun p => p.2.awaits n)).counters }
  pure streams

/-- A diagonal instruction and the products that it drops; `ftrap` is the policy .trap of DPROD. -/
def pairing (kind : Pairing) (o : GOp) (ftrap : Bool) : Op Nat := do
  match (← get).hart.diagonalLegal kind o with
  | none => illegal
  | some r => do
    match r.offender ftrap with
    | some p => trap (if p.fate = .shift then .shiftRange else .fillIn) 0 (r.info p)
    | none => pure ()
    let _ ← popWindows r
    modify fun s => s.runDiagonal o.d.toNat r
    pure r.drops

/-- A pairing by its instruction: a write of DGDROP that reads nothing and comes next leaves the drops to land (R180;
notes/assumptions/82.md). -/
def diagonal (i : Instr) (kind : Pairing) (o : GOp) (s : State) : Host.Outcome State Fault Refusal :=
  finish i (do return .dropped (← pairing kind o (o.fl.getLsbD 0))) s

def execDprod (o : GOp) (s : State) := diagonal (.dprod o) .dprod o s
def execDcorr (o : GOp) (s : State) := diagonal (.dcorr o) .dcorr o s
def execDapply (o : GOp) (s : State) := diagonal (.dapply o) .dapply o s

/-! Allocation (R165, R166, R181). -/

/-- Tiles that a name holds. -/
def AcName.tiles : AcName → Nat
  | .mapped t => if t.gang then 4 else 1
  | _ => 0

/-- Names held, a gang counting as four: the tiles that names hold (R166). -/
def Hart.held (h : Hart) : Nat := (h.ac.toList.map AcName.tiles).sum

/-- Free tiles of the reserve of n + 1 (R165). -/
def Hart.freeTiles (h : Hart) : Nat := h.task.accs + 1 - (h.held + h.retiring)

/-- Unmap a name, and the other names of its gang; its tiles retire. -/
def Hart.retire (h : Hart) (n : Nat) : Hart :=
  match h.getAC n with
  | .mapped t =>
    let names := if t.gang then [n, n + 1, n + 2, n + 3] else [n]
    names.foldl (fun h k => h.setAC k .unmapped) { h with retiring := h.retiring + AcName.tiles (.mapped t) }
  | _ => h

/-- The drain of a command of the hart at a place. -/
def Cmd.drain? (c : Cmd) (q : Place) : Option DrainJob :=
  match c.kind with
  | .adrainm j => if c.place == q then some j else none
  | _ => none

/-- The running hart's drains through the Ladle, pushed and not complete. -/
def State.drains (s : State) : List DrainJob := s.cmds.filterMap (·.drain? s.hart.place)

/-- The drain reads the tile that a name still maps. -/
def DrainJob.reads (j : DrainJob) (n : Nat) : Bool := j.name == n && j.retired.isNone

/-- The hart's drains that read the tile of a name keep it from returning: it takes a number that no retired tile which they hold has. -/
def State.holdDrains (s : State) (n : Nat) : State :=
  let k := (s.drains.filterMap (·.retired)).foldl (fun a b => max a (b + 1)) 0
  { s with cmds := s.cmds.map fun c =>
      match c.drain? s.hart.place with
      | some j => if j.reads n then { c with kind := .adrainm { j with retired := some k } } else c
      | none => c }

def State.retireName (s : State) (n : Nat) : State :=
  let s := s.holdDrains n
  { s with hart := s.hart.retire n }

/-- A drain through the Ladle reads the tile that a name maps. -/
def State.drained (s : State) (n : Nat) : Bool := s.drains.any (·.reads n)

/-- Tiles that names map and that nothing older still reads: they return as soon as they retire (R165). -/
def State.returnable (s : State) (names : List Nat) : Nat :=
  (names.map fun n => if s.drained n then 0 else AcName.tiles (s.hart.getAC n)).sum

/-- AZERO and AGANG: `names` are the names that the accumulator takes; what they map retires as the
accumulator is mapped, so that a stall leaves nothing changed (R165, R181, R375; notes/assumptions/26.md). -/
def allocate (i : Instr) (d : Nat) (gang : Bool) (s : State) : Host.Outcome State Fault Refusal :=
  let names := if gang then [d, d + 1, d + 2, d + 3] else [d]
  finishNext i (do
    let c := s.cfg
    let retired := names.foldl (fun s n => s.retireName n) s
    illegalIf (!engineFmt c.fmt || (!gang && s.hart.getAC d == .member) ||
      decide (s.hart.task.accs < retired.hart.held + names.length))
    let short := names.length - retired.hart.freeTiles
    if s.returnable names < short then wait
    else do
      set { retired with hart := { retired.hart with retiring := retired.hart.retiring - short } }
      modHart fun h => (names.foldl (fun h n => h.setAC n .member) h).setAC d (.mapped { win := windowOf c.fmt, gang })) s

def execAzero (o : GOp) (s : State) := allocate (.azero o) o.d.toNat false s
def execAgang0 (s : State) := allocate .agang0 0 true s
def execAgang4 (s : State) := allocate .agang4 4 true s

/-- AGANG of a name other than 0 and 4 (R181). -/
def execAgangBad (s : State) : Host.Outcome State Fault Refusal := finishNext .agangBad illegal s

/-! Reading and writing cells (R183 to R186). -/

/-- The tile of a name, if it may be used. -/
def Hart.tile? (h : Hart) (n : Nat) : Option Tile :=
  match h.getAC n with
  | .mapped t => some t
  | _ => none

/-- A cell's value; on a pair task the sum of the two cores' cells (R167, R184). -/
def Tile.cell (t : Tile) (pair fp : Bool) (at_ : Nat) : BitVec 32 × Flags :=
  let a := t.cells.get 0 at_
  if !pair then (a, 0)
  else
    let b := t.farCells.get 0 at_
    if fp then
      let (v, fl) := addStep { mode := .rne } a.toNat (fp32.value b.toNat)
      (BitVec.ofNat 32 v, fl)
    else (a + b, 0)

/-- The conversion of R184: `x` is the block exponent of the target under SCL. A signalling NaN sets NV (R107). -/
def drainConvert (fmt : Nat) (scl : Bool) (x : Int) (rnd : Rnd) (sat : Bool) (v : BitVec 32) : Nat × Flags :=
  if isFp fmt then
    let (y, fl) := putFp fmt scl x rnd sat (fp32.value v.toNat)
    (y, fl ||| nvOf [fp32.value v.toNat])
  else if 32 ≤ container fmt then (ofSigned (container fmt) (if fmt = 5 then (v.toNat : Int) else v.toInt), 0)
  else if sat then satInt (container fmt) (isSignedInt fmt) v.toInt
  else (v.toNat % 2 ^ container fmt, 0)

/-- The maximum of the magnitudes of cells, as FP32 (R185). -/
def drainMax (fp : Bool) (cells : List (BitVec 32)) : Nat × Flags :=
  if fp then
    let (m, fl) := cells.foldl (fun acc v =>
      let x := (fp32.value v.toNat).abs
      if x.isNan then (acc.1, acc.2 ||| Flags.nv) else (if acc.1.lt x then x else acc.1, acc.2)) (Val.zero, (0 : Flags))
    ((fp32.round { mode := .rne } false m).1, fl)
  else fp32.round { mode := .rne } false (.ofInt ((cells.foldl (fun m v => max m v.toInt.natAbs) 0 : Nat) : Int))

/-- Merge a maximum into the FP32 word at an address (R185). -/
def mergeMax (q : Req) (t : Target) (m : Nat) : Op Unit := do
  let _ ← atomicAt q t 4 fun v => Amo.apply .fmax 32 v 0 m
  pure ()

/-- The request of the maximum's atomic. -/
def Hart.maxReq (h : Hart) : Req := h.req (write := true) (atomic := true)

/-- The checks of the maximum's word, atomic alignment first (R185). -/
def checkMaximum (a : Word) : Op Target := do
  trapIf (a.toNat % 4 != 0) .atomicAlignment a
  checkAtomic (← get).hart.maxReq (.plain a) 0 4

/-- ADRAIN (R183 to R185). With VL = 0 it makes no access: there is no maximum to merge (R93). -/
def execAdrain (o : GOp) (s : State) : Host.Outcome State Fault Refusal :=
  let sat := o.x.getLsbD 2
  let withMax := o.x.getLsbD 1
  let s0 := o.imm.toNat % 1024
  finishNext (.adrain o) (do
    auReads (if withMax then [o.b] else [])
    vectorOp (fun c => isInt c.fmt || isFp c.fmt) (fun c => [Opd.of o.d c.g]) (fun _ => []) fun c => do
      let s ← get
      match s.hart.tile? o.a.toNat with
      | none => illegal
      | some t => do
        illegalIf (decide (t.size < s0 * t.win + c.vl))
        let target ← (if withMax && c.vl != 0 then some <$> checkMaximum (s.x o.b) else pure none)
        let s ← get
        let fp := isFp c.fmt
        let cells := (List.range c.vl).map fun e => t.cell s.hart.pair fp (s0 * t.win + e)
        let active := (List.range c.vl).filter (s.hart.selected o.msk.toNat)
        let mode := s.hart.csr.modeOf o.fl.toNat
        let d := s.hart.own.group o.d.toNat c.g
        setGroup o.d c.g (mapElems c c.w c.vlmax (s.hart.selected o.msk.toNat) (o.mz == 1) d fun e =>
          let (v, f1) := cells.getD e (0, 0)
          let (y, f2) := drainConvert c.fmt c.scl (s.hart.own.exponent o.d.toNat c.w e) (s.hart.csr.rnd mode e) sat v
          (y, f1 ||| f2))
        match target with
        | some target => do
          let (m, fl) := drainMax fp (active.map fun e => (cells.getD e (0, 0)).1)
          orFlags fl
          mergeMax s.hart.maxReq target m
        | none => pure ()
        if o.x.getLsbD 0 then modify (·.retireName o.a.toNat) else pure ()) s

/-- Formats of 32-bit containers (R186). -/
def isWord32 (fmt : Nat) : Bool := fmt == 4 || fmt == 5 || fmt == 0x0A

/-- The leader's or the follower's cells. -/
def Tile.side (t : Tile) (far : Bool) : Store (BitVec 32) := if far then t.farCells else t.cells

def Tile.setSide (t : Tile) (far : Bool) (cells : Store (BitVec 32)) : Tile :=
  if far then { t with farCells := cells } else { t with cells }

/-- The tile of a raw access, after the checks of R183. -/
def rawTile (n s0 vl : Nat) (fol : Bool) : Op Tile := do
  let h := (← get).hart
  illegalIf (fol && !h.leader)
  match h.tile? n with
  | none => illegal
  | some t => do
    illegalIf (decide (t.size < s0 * t.win + vl))
    pure t

def execAread (o : GOp) (s : State) : Host.Outcome State Fault Refusal :=
  let s0 := o.imm.toNat % 1024
  let fol := o.x.getLsbD 0
  finishNext (.aread o) (vectorOp (fun c => isWord32 c.fmt) (fun c => [Opd.of o.d c.g]) (fun _ => []) fun c => do
    let t ← rawTile o.a.toNat s0 c.vl fol
    let s ← get
    let d := s.hart.own.group o.d.toNat c.g
    setGroup o.d c.g (mapElems c c.w c.vlmax (s.hart.selected o.msk.toNat) (o.mz == 1) d fun e =>
      (((t.side fol).get 0 (s0 * t.win + e)).toNat, 0))) s

def execAwrite (o : GOp) (s : State) : Host.Outcome State Fault Refusal :=
  let s0 := o.imm.toNat % 1024
  let fol := o.x.getLsbD 0
  finishNext (.awrite o) (vectorOp (fun c => isWord32 c.fmt) (fun _ => []) (fun c => [Opd.of o.a c.g]) fun c => do
    let t ← rawTile o.d.toNat s0 c.vl fol
    let s ← get
    let a := s.hart.own.group o.a.toNat c.g
    let cells := ((List.range c.vl).filter (s.hart.selected o.msk.toNat)).foldl
      (fun (m : Store (BitVec 32)) e => m.set 0 (s0 * t.win + e) (BitVec.ofNat 32 (elemAt 32 a e))) (t.side fol)
    modHart fun h => h.setAC o.d.toNat (.mapped (t.setSide fol cells))) s

end Sys2Proof.Machine
end

