-- ==== Sys2Proof/Machine/Keccak.lean ====
section
/-!
DEFINITION. The hash functions that the mark unit names: KMAC256 (NIST SP 800-185) and SHA3-384 (FIPS 202) (23:R394, R395).
-/

namespace Sys2Proof.Machine

/-- The permutation's state: five planes of five lanes each. -/
abbrev Planes := List (List Word)

/-- A plane turned: its lane x is lane x + n of the other. -/
def turn (n : Nat) (plane : List Word) : List Word := plane.drop n ++ plane.take n

def xorLanes (p q : List Word) : List Word := p.zipWith (· ^^^ ·) q

/-- Every column takes the parities of two of its neighbours. -/
def mixColumns (a : Planes) : Planes :=
  let parity := a.foldl xorLanes (List.replicate 5 0)
  let near := xorLanes (turn 4 parity) ((turn 1 parity).map (·.rotateLeft 1))
  a.map (xorLanes near)

/-- The walk over the 24 places beside the first: from (x, y) to (y, 2x + 3y), starting at (1, 0); a place is x + 5y. -/
def laneWalk : Nat → Nat → List Nat
  | 0, _ => []
  | n + 1, k => k :: laneWalk n (k / 5 + 5 * ((2 * (k % 5) + 3 * (k / 5)) % 5))

/-- Every lane moves one step along the walk, rotated by the triangular number of its step. -/
def moveLanes (a : Planes) : Planes :=
  let flat := a.flatten
  let walk := laneWalk 25 1
  let moved := (walk.zip walk.tail).zipIdx.foldl (fun b p =>
    b.set p.1.2 ((flat.getD p.1.1 0).rotateLeft ((p.2 + 1) * (p.2 + 2) / 2 % 64))) flat
  (List.range 5).map fun y => (moved.drop (5 * y)).take 5

/-- The one step that is not linear. -/
def bendRows (a : Planes) : Planes := a.map fun p => xorLanes p (((turn 1 p).map (~~~·)).zipWith (· &&& ·) (turn 2 p))

/-- The shift register that makes the round constants: `n` steps from the value 1. -/
def roundRegister : Nat → Nat
  | 0 => 1
  | n + 1 =>
    let r := 2 * roundRegister n
    if r < 256 then r else Nat.xor r 0x171

/-- The constant of a round: bit 2^j − 1 from step 7 × round + j. -/
def roundConstant (round : Nat) : Word :=
  word ((List.range 7).foldl (fun c j => c + roundRegister (7 * round + j) % 2 * 2 ^ (2 ^ j - 1)) 0)

def addConstant (round : Nat) (a : Planes) : Planes := a.modify 0 fun p => p.modify 0 (· ^^^ roundConstant round)

/-- The permutation: 24 rounds. -/
def permute (a : Planes) : Planes :=
  (List.range 24).foldl (fun a round => addConstant round (bendRows (moveLanes (mixColumns a)))) a

/-- Bytes as planes, zeros after them. -/
def planesOf (bytes : List Byte) : Planes :=
  (List.range 5).map fun y => (List.range 5).map fun x => word (ofBytes ((bytes.drop (40 * y + 8 * x)).take 8))

def bytesOf (a : Planes) : List Byte := a.flatten.flatMap fun w => toBytes 8 w.toNat

/-- The sponge of a capacity that leaves `rate` bytes a block: `n` bytes from a message with its domain byte. -/
def sponge (rate : Nat) (domain : Byte) (m : List Byte) (n : Nat) : List Byte :=
  let blocks := m.length / rate + 1
  let last := rate * blocks - 1
  let text (k : Nat) : Byte :=
    m.getD k 0 ^^^ (if k = m.length then domain else 0) ^^^ (if k = last then 0x80 else 0)
  let taken := (List.range blocks).foldl (fun a b =>
    permute (a.zipWith xorLanes (planesOf ((List.range rate).map fun k => text (rate * b + k))))) (planesOf [])
  let given := (List.range (n / rate)).foldl (fun out (_ : Nat) =>
    let next := permute out.2
    (out.1 ++ (bytesOf next).take rate, next)) ((bytesOf taken).take rate, taken)
  given.1.take n

def sha3_384 (m : List Byte) : List Byte := sponge 104 0x06 m 48

/-- The big-endian bytes of a number, at least one. -/
def bigEndian (n : Nat) : List Byte := (toBytes (n.log2 / 8 + 1) n).reverse

/-- A number before or after its own length, as SP 800-185 writes it. -/
def leftEncode (n : Nat) : List Byte := BitVec.ofNat 8 (bigEndian n).length :: bigEndian n
def rightEncode (n : Nat) : List Byte := bigEndian n ++ [BitVec.ofNat 8 (bigEndian n).length]
def encodeString (l : List Byte) : List Byte := leftEncode (8 * l.length) ++ l

/-- A whole number of blocks of `w` bytes. -/
def bytepad (l : List Byte) (w : Nat) : List Byte :=
  let m := leftEncode w ++ l
  m ++ List.replicate (ceilDiv m.length w * w - m.length) 0

/-- KMAC256 of `n` bytes. -/
def kmac256 (key x : List Byte) (n : Nat) (custom : List Byte) : List Byte :=
  let name : List Byte := [0x4B, 0x4D, 0x41, 0x43]
  sponge 136 0x04 (bytepad (encodeString name ++ encodeString custom) 136 ++ bytepad (encodeString key) 136 ++ x ++
    rightEncode (8 * n)) n

end Sys2Proof.Machine
end

