-- ==== Sys2Proof/Machine/Ed25519.lean ====
section
/-!
DEFINITION. Ed25519 (RFC 8032, section 5.1) with its hash SHA-512 (FIPS 180-4), which R395 and R397 name and do not state
(23:R395, R397; PRESUMED, notes/assumptions/113.md).
-/

namespace Sys2Proof.Machine

/-! SHA-512. Its constants are the first 64 bits of fractional parts of roots of primes. -/

/-- The largest number of at most `bits` bits whose `k`-th power does not exceed `n`. -/
def rootOf (k n : Nat) : Nat → Nat
  | 0 => 0
  | bits + 1 =>
    let r := 2 * rootOf k (n / 2 ^ k) bits
    if (r + 1) ^ k ≤ n then r + 1 else r

def isPrime (n : Nat) : Bool := decide (2 ≤ n) && (List.range n).all fun k => k < 2 || n % k != 0

/-- The first `n` primes: the 80th is 409. -/
def primes (n : Nat) : List Nat := ((List.range 410).filter isPrime).take n

def sha512Start : List Word := (primes 8).map fun p => word (rootOf 2 (p * 2 ^ 128) 68)
def sha512Constants : List Word := (primes 80).map fun p => word (rootOf 3 (p * 2 ^ 192) 68)

/-- The big-endian words of a block. -/
def blockWords (b : List Byte) : List Word := (List.range 16).map fun k => word (ofBytes ((b.drop (8 * k)).take 8).reverse)

/-- The message schedule, newest word first. -/
def scheduleFrom : Nat → List Word → List Word
  | 0, l => l
  | n + 1, l =>
    let a := l.getD 14 0
    let b := l.getD 1 0
    let s0 := a.rotateRight 1 ^^^ a.rotateRight 8 ^^^ (a >>> 7)
    let s1 := b.rotateRight 19 ^^^ b.rotateRight 61 ^^^ (b >>> 6)
    scheduleFrom n ((l.getD 15 0 + s0 + l.getD 6 0 + s1) :: l)

/-- One round on the eight working words. -/
def sha512Round (v : List Word) (kw : Word) : List Word :=
  match v with
  | [a, b, c, d, e, f, g, h] =>
    let t1 := h + (e.rotateRight 14 ^^^ e.rotateRight 18 ^^^ e.rotateRight 41) + ((e &&& f) ^^^ (~~~e &&& g)) + kw
    let t2 := (a.rotateRight 28 ^^^ a.rotateRight 34 ^^^ a.rotateRight 39) + ((a &&& b) ^^^ (a &&& c) ^^^ (b &&& c))
    [t1 + t2, a, b, c, d + t1, e, f, g]
  | v => v

def sha512Block (h : List Word) (b : List Byte) : List Word :=
  let w := (scheduleFrom 64 (blockWords b).reverse).reverse
  h.zipWith (· + ·) ((w.zipWith (· + ·) sha512Constants).foldl sha512Round h)

def sha512 (m : List Byte) : List Byte :=
  let n := m.length
  let padded := m ++ [0x80] ++ List.replicate ((239 - n % 128) % 128) 0 ++ (toBytes 16 (8 * n)).reverse
  ((List.range (padded.length / 128)).foldl (fun h k => sha512Block h ((padded.drop (128 * k)).take 128)) sha512Start).flatMap
    fun w => (toBytes 8 w.toNat).reverse

/-! The curve: −x² + y² = 1 + d x² y² over the integers modulo 2^255 − 19. -/

def fieldPrime : Nat := 2 ^ 255 - 19

/-- The order of the base point. -/
def groupOrder : Nat := 2 ^ 252 + 27742317777372353535851937790883648493

/-- A power modulo `m`, by the exponent's low `bits` bits. -/
def powMod (m b e : Nat) : Nat → Nat
  | 0 => 1
  | bits + 1 => (if e.testBit 0 then b else 1) * powMod m (b * b % m) (e / 2) bits % m

def fieldInverse (a : Nat) : Nat := powMod fieldPrime a (fieldPrime - 2) 255

def curveD : Nat := (fieldPrime - 121665) * fieldInverse 121666 % fieldPrime

/-- A point by its coordinates. -/
abbrev Point25519 := Nat × Nat

def Point25519.add (p q : Point25519) : Point25519 :=
  let t := curveD * (p.1 * q.1 % fieldPrime) % fieldPrime * (p.2 * q.2 % fieldPrime) % fieldPrime
  ((p.1 * q.2 + q.1 * p.2) % fieldPrime * fieldInverse (1 + t) % fieldPrime,
    (p.2 * q.2 + p.1 * q.1) % fieldPrime * fieldInverse (fieldPrime + 1 - t) % fieldPrime)

/-- A multiple of a point, by the low `bits` bits of the factor. -/
def Point25519.times (p : Point25519) (k : Nat) : Nat → Point25519
  | 0 => (0, 1)
  | bits + 1 =>
    let rest := Point25519.times (p.add p) (k / 2) bits
    if k.testBit 0 then p.add rest else rest

/-- The x coordinate of a point with a given y and the low bit of x, if there is one. -/
def recoverX (y : Nat) (odd : Bool) : Option Nat :=
  let u := (y * y + fieldPrime - 1) % fieldPrime
  let v := (curveD * (y * y % fieldPrime) + 1) % fieldPrime
  let square := u * fieldInverse v % fieldPrime
  let x := powMod fieldPrime square ((fieldPrime + 3) / 8) 255
  let x := if x * x % fieldPrime = square then x else x * powMod fieldPrime 2 ((fieldPrime - 1) / 4) 255 % fieldPrime
  if x * x % fieldPrime != square || (x == 0 && odd) then none
  else some (if x.testBit 0 == odd then x else fieldPrime - x)

def basePoint : Point25519 :=
  let y := 4 * fieldInverse 5 % fieldPrime
  ((recoverX y false).getD 0, y)

def Point25519.encode (p : Point25519) : List Byte := toBytes 32 (p.2 + p.1 % 2 * 2 ^ 255)

def decodePoint (b : List Byte) : Option Point25519 :=
  let v := ofBytes b
  let y := v % 2 ^ 255
  if b.length != 32 || decide (fieldPrime ≤ y) then none else (recoverX y (v.testBit 255)).map fun x => (x, y)

/-! The scheme. -/

/-- The secret scalar of a key. -/
def secretScalar (secret : List Byte) : Nat :=
  let h := ofBytes ((sha512 secret).take 32)
  h % 2 ^ 254 / 8 * 8 + 2 ^ 254

def ed25519PublicKey (secret : List Byte) : List Byte := (basePoint.times (secretScalar secret) 256).encode

def ed25519Sign (secret m : List Byte) : List Byte :=
  let r := ofBytes (sha512 ((sha512 secret).drop 32 ++ m)) % groupOrder
  let R := (basePoint.times r 256).encode
  let k := ofBytes (sha512 (R ++ ed25519PublicKey secret ++ m)) % groupOrder
  R ++ toBytes 32 ((r + k * secretScalar secret) % groupOrder)

/-- The signature verifies: the group equation with the cofactor. -/
def ed25519Verify (key m sig : List Byte) : Bool :=
  let S := ofBytes (sig.drop 32)
  match decodePoint key, decodePoint (sig.take 32) with
  | some a, some r =>
    let k := ofBytes (sha512 (sig.take 32 ++ key ++ m)) % groupOrder
    sig.length == 64 && decide (S < groupOrder) && (basePoint.times (8 * S) 260 == (r.times 8 4).add ((a.times k 256).times 8 4))
  | _, _ => false

end Sys2Proof.Machine
end

