-- ==== Sys2Proof/Machine/MlDsa.lean ====
section
/-!
DEFINITION. ML-DSA-65 (FIPS 204), which R395 and R397 name and do not state (23:R395, R397; PRESUMED, notes/assumptions/113.md). A polynomial
is the list of its 256 coefficients modulo q; transforms are written out as evaluations.
-/

namespace Sys2Proof.Machine

def mlQ : Nat := 8380417

/-- Dropped bits of t, non-zero coefficients of a challenge, bounds of the mask, of the low part and of the secret, hints. -/
def mlD : Nat := 13
def mlTau : Nat := 49
def mlGamma1 : Nat := 2 ^ 19
def mlGamma2 : Nat := 261888
def mlEta : Nat := 4
def mlBeta : Nat := 196
def mlOmega : Nat := 55

/-- Rows and columns of the matrix. -/
def mlK : Nat := 6
def mlL : Nat := 5

abbrev Poly := List Nat

def shake128 (m : List Byte) (n : Nat) : List Byte := sponge 168 0x1F m n
def shake256 (m : List Byte) (n : Nat) : List Byte := sponge 136 0x1F m n

/-! Arithmetic. -/

def Poly.add (a b : Poly) : Poly := a.zipWith (fun x y => (x + y) % mlQ) b
def Poly.sub (a b : Poly) : Poly := a.zipWith (fun x y => (x + mlQ - y) % mlQ) b
def Poly.mulPoints (a b : Poly) : Poly := a.zipWith (fun x y => x * y % mlQ) b

/-- The representative of a residue nearest to zero. -/
def nearZero (m r : Nat) : Int := if 2 * (r % m) ≤ m then Int.ofNat (r % m) else Int.ofNat (r % m) - Int.ofNat m

def ofInt (x : Int) : Nat := (x % (mlQ : Int)).toNat

/-- The largest distance of a coefficient from zero. -/
def Poly.norm (a : Poly) : Nat := a.foldl (fun n x => max n (nearZero mlQ x).natAbs) 0

/-- Powers of a root: the first `n`. -/
def powersOf (z : Nat) (n : Nat) : List Nat := ((List.range n).foldl (fun (acc : List Nat × Nat) _ => (acc.2 :: acc.1, acc.2 * z % mlQ)) ([], 1)).1.reverse

/-- The powers of 1753, a root of order 512. -/
def rootPowers : Array Nat := (powersOf 1753 512).toArray

/-- A number of eight bits reversed. -/
def reverse8 (k : Nat) : Nat := (List.range 8).foldl (fun n j => n + bitsAt k j 1 * 2 ^ (7 - j)) 0

/-- The exponent of the k-th point: 2 times k reversed, plus 1. -/
def pointExponent (k : Nat) : Nat := 2 * reverse8 k + 1

/-- The values of a polynomial at the 256 points. -/
def Poly.values (a : Poly) : Poly :=
  (List.range 256).map fun i =>
    let e := pointExponent i
    a.zipIdx.foldl (fun s p => (s + p.1 * rootPowers.getD (e * p.2 % 512) 0) % mlQ) 0

/-- The polynomial of 256 values: 8347681 is the inverse of 256. -/
def Poly.ofValues (v : Poly) : Poly :=
  (List.range 256).map fun j =>
    8347681 * (v.zipIdx.foldl (fun s p => (s + p.1 * rootPowers.getD ((512 - pointExponent p.2 * j % 512) % 512) 0) % mlQ) 0) % mlQ

def zeroPoly : Poly := List.replicate 256 0

/-- A matrix of values times a vector of values. -/
def timesVector (a : List (List Poly)) (v : List Poly) : List Poly :=
  a.map fun row => (row.zipWith Poly.mulPoints v).foldl Poly.add zeroPoly

/-! Bits. -/

/-- Numbers of `w` bits each as bytes, the first lowest. -/
def packBits (w : Nat) (l : List Nat) : List Byte := toBytes (w * l.length / 8) (l.foldr (fun x acc => x % 2 ^ w + 2 ^ w * acc) 0)

def unpackBits (w n : Nat) (b : List Byte) : List Nat :=
  let v := ofBytes b
  (List.range n).map fun k => bitsAt v (w * k) w

/-! Sampling. -/

/-- A polynomial of values from a seed. -/
def rejectValues (seed : List Byte) : Poly :=
  let b := shake128 seed 1536
  ((List.range 512).filterMap fun k =>
    let z := ofBytes ((b.drop (3 * k)).take 3) % 2 ^ 23
    if z < mlQ then some z else none).take 256

/-- A polynomial of small coefficients from a seed. -/
def rejectSmall (seed : List Byte) : Poly :=
  ((shake256 seed 1024).flatMap fun z => [z.toNat % 16, z.toNat / 16].filterMap fun (n : Nat) =>
    if n < 9 then some (ofInt (Int.ofNat mlEta - Int.ofNat n)) else none).take 256

def expandA (rho : List Byte) : List (List Poly) :=
  (List.range mlK).map fun r => (List.range mlL).map fun s => rejectValues (rho ++ toBytes 1 s ++ toBytes 1 r)

def expandS (rho : List Byte) : List Poly × List Poly :=
  ((List.range mlL).map fun r => rejectSmall (rho ++ toBytes 2 r), (List.range mlK).map fun r => rejectSmall (rho ++ toBytes 2 (mlL + r)))

def expandMask (rho : List Byte) (kappa : Nat) : List Poly :=
  (List.range mlL).map fun r =>
    (unpackBits 20 256 (shake256 (rho ++ toBytes 2 (kappa + r)) 640)).map fun (x : Nat) => ofInt (Int.ofNat mlGamma1 - Int.ofNat x)

/-- The draws of a challenge: position `i` takes what a drawn position holds, which takes a sign. -/
def drawBall (signs : Nat) : Nat → Nat → List Byte → Poly → Poly
  | 0, _, _, c => c
  | n + 1, i, b, c =>
    let rest := b.dropWhile fun j => decide (i < j.toNat)
    let j := (rest.headD 0).toNat
    let c := (c.set i (c.getD j 0)).set j (if signs.testBit (i + mlTau - 256) then mlQ - 1 else 1)
    drawBall signs n (i + 1) rest.tail c

def sampleInBall (seed : List Byte) : Poly :=
  let b := shake256 seed 512
  drawBall (ofBytes (b.take 8)) mlTau (256 - mlTau) (b.drop 8) zeroPoly

/-! High and low parts. -/

def power2Round (r : Nat) : Nat × Int :=
  let r0 := nearZero (2 ^ mlD) r
  ((Int.ofNat r - r0).toNat / 2 ^ mlD, r0)

def decompose (r : Nat) : Nat × Int :=
  let r0 := nearZero (2 * mlGamma2) r
  if Int.ofNat r - r0 = Int.ofNat (mlQ - 1) then (0, r0 - 1) else ((Int.ofNat r - r0).toNat / (2 * mlGamma2), r0)

def highBits (r : Nat) : Nat := (decompose r).1

def makeHint (z r : Nat) : Bool := highBits r != highBits ((r + z) % mlQ)

def useHint (h : Bool) (r : Nat) : Nat :=
  let (r1, r0) := decompose r
  if !h then r1 else if 0 < r0 then (r1 + 1) % 16 else (r1 + 15) % 16

/-! Keys and signatures. -/

structure MlKeys where
  public_ : List Byte
  rho : List Byte
  key : List Byte
  s1 : List Poly
  s2 : List Poly
  t0 : List Poly

/-- The keys of a 32-byte seed. -/
def mlKeys (seed : List Byte) : MlKeys :=
  let h := shake256 (seed ++ toBytes 1 mlK ++ toBytes 1 mlL) 128
  let rho := h.take 32
  let (s1, s2) := expandS ((h.drop 32).take 64)
  let t := ((timesVector (expandA rho) (s1.map Poly.values)).map Poly.ofValues).zipWith Poly.add s2
  { public_ := rho ++ t.flatMap fun p => packBits 10 (p.map fun r => (power2Round r).1)
    rho, key := h.drop 96, s1, s2, t0 := t.map fun p => p.map fun r => ofInt (power2Round r).2 }

def packHints (h : List (List Bool)) : List Byte :=
  let at_ := h.map fun p => (List.range 256).filter fun j => p.getD j false
  let flat := at_.flatten
  (flat ++ List.replicate (mlOmega - flat.length) 0).map (BitVec.ofNat 8 ·) ++
    (List.range mlK).map fun k => BitVec.ofNat 8 ((at_.take (k + 1)).map List.length).sum

/-- A list is strictly rising. -/
def rising : List Nat → Bool
  | a :: b :: rest => decide (a < b) && rising (b :: rest)
  | _ => true

/-- The hints of a signature; none where they are not written as they must be. -/
def unpackHints (y : List Byte) : Option (List (List Bool)) :=
  let ends := (y.drop mlOmega).map (·.toNat)
  let starts := 0 :: ends
  let rows := (List.range mlK).map fun k => ((y.take (ends.getD k 0)).drop (starts.getD k 0)).map (·.toNat)
  if ((List.range mlK).all fun k => starts.getD k 0 ≤ ends.getD k 0 && ends.getD k 0 ≤ mlOmega) && rows.all rising &&
      ((y.take mlOmega).drop (ends.getD (mlK - 1) 0)).all (· == 0) then
    some (rows.map fun r => (List.range 256).map r.contains)
  else none

def challengeOf (mu : List Byte) (w1 : List (List Nat)) : List Byte := shake256 (mu ++ w1.flatMap (packBits 4)) 48

/-- The message as it is signed: the pure form with an empty context. -/
def mlMessage (m : List Byte) : List Byte := [0, 0] ++ m

/-- One attempt of a signature, and the next, from mask number `kappa` on. -/
def mlAttempt (k : MlKeys) (a : List (List Poly)) (mu rho2 : List Byte) : Nat → Nat → Option (List Byte)
  | 0, _ => none
  | fuel + 1, kappa =>
    let y := expandMask rho2 kappa
    let w := (timesVector a (y.map Poly.values)).map Poly.ofValues
    let c := challengeOf mu (w.map (·.map highBits))
    let ball := (sampleInBall c).values
    let times (p : Poly) : Poly := Poly.ofValues (ball.mulPoints p.values)
    let z := y.zipWith Poly.add (k.s1.map times)
    let r := w.zipWith Poly.sub (k.s2.map times)
    let ct0 := k.t0.map times
    let hints := (r.zip ct0).map fun p => p.1.zipWith (fun x t => makeHint (mlQ - t) ((x + t) % mlQ)) p.2
    let low := r.all fun p => p.all fun x => decide ((decompose x).2.natAbs < mlGamma2 - mlBeta)
    if (z.all fun p => decide (Poly.norm p < mlGamma1 - mlBeta)) && low && (ct0.all fun p => decide (Poly.norm p < mlGamma2)) &&
        (hints.map fun p => p.countP id).sum ≤ mlOmega then
      some (c ++ (z.flatMap fun p => packBits 20 (p.map fun (x : Nat) => (Int.ofNat mlGamma1 - nearZero mlQ x).toNat)) ++ packHints hints)
    else mlAttempt k a mu rho2 fuel (kappa + mlL)

/-- Attempts that a signature makes at most. -/
def mlAttempts : Nat := 814

/-- The signature of a message by the keys of a seed, with 32 random bytes. -/
def mlDsaSign (seed m rnd : List Byte) : List Byte :=
  let k := mlKeys seed
  let mu := shake256 (shake256 k.public_ 64 ++ mlMessage m) 64
  (mlAttempt k (expandA k.rho) mu (shake256 (k.key ++ rnd ++ mu) 64) mlAttempts 0).getD []

def mlDsaPublicKey (seed : List Byte) : List Byte := (mlKeys seed).public_

/-- Bytes of a key and of a signature. -/
def mlKeyBytes : Nat := 1952
def mlSigBytes : Nat := 3309

def mlDsaVerify (key m sig : List Byte) : Bool :=
  let rho := key.take 32
  let t1 := (List.range mlK).map fun k => unpackBits 10 256 ((key.drop (32 + 320 * k)).take 320)
  let c := sig.take 48
  let z := (List.range mlL).map fun k =>
    (unpackBits 20 256 ((sig.drop (48 + 640 * k)).take 640)).map fun (x : Nat) => ofInt (Int.ofNat mlGamma1 - Int.ofNat x)
  match unpackHints (sig.drop 3248) with
  | none => false
  | some h =>
    let mu := shake256 (shake256 key 64 ++ mlMessage m) 64
    let ball := (sampleInBall c).values
    let az := timesVector (expandA rho) (z.map Poly.values)
    let w := (az.zip t1).map fun p => Poly.ofValues (p.1.sub (ball.mulPoints (Poly.values (p.2.map (· * 2 ^ mlD % mlQ)))))
    key.length == mlKeyBytes && sig.length == mlSigBytes && (z.all fun p => decide (Poly.norm p < mlGamma1 - mlBeta)) &&
      challengeOf mu ((h.zip w).map fun p => p.1.zipWith useHint p.2) == c

end Sys2Proof.Machine
end

