-- ==== Sys2Proof/Machine/System.lean ====
section
/-!
DEFINITION. Control-status registers and the system instructions, OPC 0xD0 and 0xD1 (01:R15 to R19, R25; 04:R79 to R83;
11:R217; 12:R237).
-/

namespace Sys2Proof.Machine

/-- HSTAT (R17). -/
def Hart.hstat (h : Hart) : Word :=
  word (h.csr.slot.toNat * 256 + (if h.firmware then 0x18 else 0) + (if h.leader then 4 else 0) +
    (if h.pair then 2 else 0) + (if h.det then 1 else 0))

/-- The refresh calendar at a chip-counter value (R19, R217). -/
def wscal (cycle : Word) : Word :=
  let t := cycle.toNat
  let r := t % 86400
  let g := r / 10800
  let running := r % 10800 < 2160
  let group := if running then g else (g + 1) % 8
  let start := if running then t - r % 10800 else t - r + 10800 * (g + 1)
  word (group * 2 ^ 48 + start % 2 ^ 48)

/-- WSCAL as a hart reads it: what firmware has written stands until the calendar names another window (R15, R217; DESIGN CHOICE,
notes/assumptions/15.md). -/
def Csrs.readWscal (c : Csrs) (cycle : Word) : Word :=
  match c.wscal with
  | some (v, was) => if Sys2Proof.Machine.wscal cycle = was then v else Sys2Proof.Machine.wscal cycle
  | none => Sys2Proof.Machine.wscal cycle

/-- A CSR by its number; none for a number that R16 does not list. -/
def State.csr (s : State) (n : Nat) : Option Word :=
  let h := s.hart
  let c := h.csr
  match n with
  | 0x000 => some h.hstat
  | 0x001 => some c.vl
  | 0x002 => some c.vty
  | 0x003 => some 256
  | 0x004 => some c.stripn
  | 0x005 => some c.slip
  | 0x006 => some c.elx
  | 0x007 => some c.wmbase
  | 0x008 => some c.fflags
  | 0x009 => some c.frm
  | 0x00A => some c.srseed
  | 0x00B => some c.srbase
  | 0x00C => some c.dgdrop
  | 0x010 => some c.taskid
  | 0x011 => some c.nodeid
  | 0x012 => some c.taskn
  | 0x013 => some c.argp
  | 0x014 => some c.coreid
  | 0x015 => some c.dieid
  | 0x018 => some (c.lidx.getD 0 0)
  | 0x019 => some (c.lidx.getD 1 0)
  | 0x01A => some (c.lidx.getD 2 0)
  | 0x01B => some (c.lidx.getD 3 0)
  | 0x01C => some (c.lidx.getD 4 0)
  | 0x01D => some (c.lidx.getD 5 0)
  | 0x020 => some s.cycle
  | 0x021 => some c.preempt
  | 0x028 => some (c.readWscal s.cycle)
  | 0x030 => some c.retuse
  | 0x040 => some c.tvec
  | 0x041 => some c.epc
  | 0x042 => some c.ecause
  | 0x043 => some c.eaddr
  | 0x044 => some c.einfo
  | 0x050 => some c.budget
  | 0x051 => some c.togest
  | _ => none

/-- Registers that are read-write at task privilege (R16). -/
def csrTaskWritable (n : Nat) : Bool :=
  n ∈ [0x005, 0x007, 0x008, 0x009, 0x00A, 0x00B, 0x00C, 0x030, 0x040, 0x050]

/-- Read-only registers marked (f), whose write traps at task privilege (R16). -/
def csrFirmwareOnly (n : Nat) : Bool := n ∈ [0x000, 0x006, 0x041, 0x042, 0x043, 0x044]

/-- SLIP's written value (R16). -/
def clampSlip (v : Word) : Word := if v < 1 then 1 else if 8 < v then 8 else v

/-- HSTAT as firmware writes it: PRIV takes only the two levels that are held (R15, R17). -/
def Hart.writeHstat (h : Hart) (v : Word) : Hart :=
  { h with
    det := v.getLsbD 0
    pair := v.getLsbD 1
    leader := v.getLsbD 2
    firmware := if v.getLsbD 3 == v.getLsbD 4 then v.getLsbD 3 else h.firmware
    csr := { h.csr with slot := v.extractLsb' 8 2 } }

/-- Write a CSR, reserved fields ignored (R6, R16 to R20). VLENB and CYCLE are read-only at every privilege. -/
def Hart.writeCsr (h : Hart) (n : Nat) (v : Word) : Hart :=
  let c := h.csr
  let put (c : Csrs) : Hart := { h with csr := c }
  match n with
  | 0x000 => h.writeHstat v
  | 0x001 => put { c with vl := v }
  | 0x002 => put { c with vty := v &&& 0x1FF }
  | 0x004 => put { c with stripn := v }
  | 0x005 => put { c with slip := clampSlip v }
  | 0x006 => put { c with elx := v }
  | 0x007 => put { c with wmbase := v }
  | 0x008 => put { c with fflags := v &&& 0x3F }
  | 0x009 => if 6 ≤ v.toNat % 8 then h else put { c with frm := v &&& 7 }
  | 0x00A => put { c with srseed := v }
  | 0x00B => put { c with srbase := v }
  | 0x00C => put { c with dgdrop := v &&& 0xFFFFFFFF }
  | 0x010 => put { c with taskid := v }
  | 0x011 => put { c with nodeid := v }
  | 0x012 => put { c with taskn := v }
  | 0x013 => put { c with argp := v }
  | 0x014 => put { c with coreid := v }
  | 0x015 => put { c with dieid := v }
  | 0x018 => put { c with lidx := c.lidx.setIfInBounds 0 v }
  | 0x019 => put { c with lidx := c.lidx.setIfInBounds 1 v }
  | 0x01A => put { c with lidx := c.lidx.setIfInBounds 2 v }
  | 0x01B => put { c with lidx := c.lidx.setIfInBounds 3 v }
  | 0x01C => put { c with lidx := c.lidx.setIfInBounds 4 v }
  | 0x01D => put { c with lidx := c.lidx.setIfInBounds 5 v }
  | 0x030 => put { c with retuse := v &&& 0xFFFFFFFFFFFF }
  | 0x040 => put { c with tvec := v }
  | 0x041 => put { c with epc := v }
  | 0x042 => put { c with ecause := v &&& 0xFFF }
  | 0x043 => put { c with eaddr := v }
  | 0x044 => put { c with einfo := v }
  | 0x050 => put { c with budget := v &&& 3 }
  | 0x051 => put { c with togest := v &&& 0xFF }
  | _ => h

/-- A pre-emption request for the running hart, or its withdrawal (R371): a new request starts the deadline and is a firmware event
(R382). There is none of a task with SAVEP = 0. -/
def State.setPreempt (s : State) (on : Bool) : State :=
  let h := s.hart
  if !on then { s with hart := { h with csr := { h.csr with preempt := 0 }, deadline := none } }
  else if h.task.savep = 0 || h.csr.preempt.getLsbD 0 then s
  else
    State.raiseEvent { s with hart := { h with
      csr := { h.csr with preempt := 1 }, deadline := some (s.cycle + (s.die h.place.die).deadline) } } h.place.die (some h.place.core)

/-- Write a CSR of the running hart; WSCAL and PREEMPT belong to the device's clock as well. -/
def State.writeCsr (s : State) (n : Nat) (v : Word) : State :=
  match n with
  | 0x021 => s.setPreempt (v.getLsbD 0)
  | 0x028 => { s with hart := { s.hart with csr := { s.hart.csr with wscal := some (v &&& 0x7FFFFFFFFFFFF, wscal s.cycle) } } }
  | _ => { s with hart := s.hart.writeCsr n v }

/-- CSRs that the execute unit keeps (R80). -/
def csrOfXu (n : Nat) : Bool :=
  n ∈ [0x001, 0x002, 0x004, 0x006, 0x007, 0x008, 0x009, 0x00A, 0x00B, 0x00C, 0x018, 0x019, 0x01A, 0x01B, 0x01C, 0x01D, 0x051]

/-- The loss of decoupling of a CSR instruction (R80, R272): an access-side D of a CSR of the execute unit, or an
execute-side source of one of the access unit. -/
def csrReads (n : Nat) (d : Reg) (srcs : List Reg) : Op Unit :=
  if csrOfXu n then (if 32 ≤ d.toNat then pure () else modHart Hart.loseDecoupling) else auReads srcs

/-- The number that a CSR instruction names. -/
def csrNumber (o : GOp) : Nat := o.imm.toNat % 4096

/-- A command whose completion ORs flags into its hart's FFLAGS (R287, R321). -/
def Cmd.setsFlags (c : Cmd) : Bool :=
  match c.kind with
  | .copyCv .. | .adrainm .. | .breplay .. | .bflush .. => true
  | _ => false

/-- An instruction on FFLAGS waits for the older commands that update it (R80, R287). -/
def waitForFlags (n : Nat) : Op Unit := do
  let s ← get
  if n = 0x008 && s.cmds.any fun c => c.place == s.hart.place && c.setsFlags then wait else pure ()

/-- The value that a write leaves in a CSR: one of DGDROP that reads nothing, right behind a diagonal instruction, does not wait for it, and
the drops land on what is written (R180, case 1). -/
def Hart.landed (h : Hart) (n : Nat) (d : Reg) (v : Word) : Word :=
  if n = 0x00C && d == 0 then word (min 0xFFFFFFFF ((v &&& 0xFFFFFFFF).toNat + h.landing)) else v

/-- A CSR instruction (R79): `f` answers the value written from the old value and x[A], none when nothing is written; `blind` says that the
old value has no part in it. -/
def csrOp (i : Instr) (o : GOp) (f : Word → Word → Option Word) (s : State) (blind : Bool := false) : Host.Outcome State Fault Refusal :=
  finishNext i (do
    let s ← get
    let n := csrNumber o
    match s.csr n with
    | none => illegal
    | some old => do
      let new := f old (s.x o.a)
      illegalIf (new.isSome && csrFirmwareOnly n && !s.hart.firmware)
      csrReads n o.d [o.a]
      waitForFlags n
      match new with
      | some v => if s.hart.firmware || csrTaskWritable n then modify (·.writeCsr n (if blind then s.hart.landed n o.d v else v)) else pure ()
      | none => pure ()
      setX o.d old) s

def execCsrr (o : GOp) (s : State) := csrOp (.csrr o) o (fun _ _ => none) s
/-- CSRW always writes (R79). -/
def execCsrw (o : GOp) (s : State) := csrOp (.csrw o) o (fun _ a => some a) s (blind := true)
/-- CSRS and CSRC with A = 0 make no write (R79). -/
def execCsrs (o : GOp) (s : State) :=
  csrOp (.csrs o) o (fun old a => if o.a = 0 then none else some (old ||| a)) s
def execCsrc (o : GOp) (s : State) :=
  csrOp (.csrc o) o (fun old a => if o.a = 0 then none else some (old &&& ~~~a)) s

/-- A trap whose EPC is the next PC in sequence (R22, R82). -/
def trapAfter (cause : Cause) (imm : BitVec 32) : Op Flow :=
  throw (.trap { cause, info := imm.setWidth 64, after := true })

def execEcall (o : GOp) (s : State) : Host.Outcome State Fault Refusal := finish (.ecall o) (trapAfter .ecall o.imm) s

def execBrk (o : GOp) (s : State) : Host.Outcome State Fault Refusal := finish (.brk o) (trapAfter .brk o.imm) s

/-- TRET, TLBINV and WFI raise illegal instruction at task privilege (R15), as a check of R32 (R41): SEQF is that of the
arrival at the slot (R20). -/
def firmwareOnly : Op Unit := do
  let h := (← get).hart
  if h.firmware then pure () else throw (.trap { cause := .illegalInstruction, seqf := h.sequential })

/-- The hart as TRET leaves it (R25): ELX and m7 are kept. PPRIV 0b01 and 0b10, which are never held (R15), return to task
privilege (DESIGN CHOICE, notes/assumptions/74.md). -/
def Hart.returned (h : Hart) : Hart :=
  { h with
    firmware := bitsAt h.csr.ecause.toNat 9 2 == 3
    pc := h.csr.epc
    sequential := h.csr.ecause.getLsbD 11
    waiting := none }

/-- Returning from a trap (R25); a target that fails is a trap at firmware privilege, which is fatal (R24, R28). -/
def trapReturn : Op Flow := do
  let s ← get
  let epc := s.hart.csr.epc
  trapIf (!isPc epc) .illegalBranchTarget epc
  let s' := { s with hart := s.hart.returned }
  trapIf (!s.hart.csr.ecause.getLsbD 11 && s'.refusesTarget epc) .illegalBranchTarget epc
  set s'
  pure .placed

def execTret (s : State) : Host.Outcome State Fault Refusal :=
  finish .tret (do
    firmwareOnly
    trapReturn) s

/-- The pending stores that accesses within a TLBINV's scope have made (R237): after it none performs on an old translation. -/
def State.flushWithin (s : State) (p : Place) (scope : Nat) : State :=
  s.performPending fun w =>
    if scope = 0 then w.place.die == p.die && w.place.core == p.core else if scope = 1 then w.place.die == p.die else true

/-- TLBINV (R237): a release at package scope, then the copies within SCOPE are removed, and the accesses that they translated have
performed. -/
def execTlbinv (o : GOp) (s : State) : Host.Outcome State Fault Refusal :=
  finishNext (.tlbinv o) (do
    firmwareOnly
    releaseOp 4
    modify fun s => s.flushWithin s.hart.place (o.fl.toNat / 4)
    modify fun s => s.invalidateTlb s.hart.place (o.fl.toNat / 4) (o.fl.toNat % 4) (s.x o.a) ((s.x o.b).setWidth 12)) s

/-- WFI suspends the hart until a firmware event is raised for it (R83). -/
def execWfi (s : State) : Host.Outcome State Fault Refusal :=
  finishNext .wfi (do
    firmwareOnly
    if (← get).hart.fwEvent then modHart fun h => { h with fwEvent := false } else wait) s

end Sys2Proof.Machine
end

