-- ==== Sys2Proof/Machine/Ladle.lean ====
section
/-!
DEFINITION. Pushing a command to the Ladle: the dispatch checks, the promise, the ring slot; COPY, COPYCV, COPYSEG, WSLOAD,
MKOUT of OPC 0xB0 and ADRAINM of OPC 0x82 (16:R284 to R293, R298 to R300; 23:R392 to R394). The elements of a command are
performed in Machine/Engines.lean.
-/

namespace Sys2Proof.Machine

/-! Sides. -/

def Side.indexed (sd : Side) : Bool := sd.pattern.elim false APReg.indexed

/-- The offset of element `n` of a side; `entry` is its index-list word. -/
def Side.offset (sd : Side) (n entry : Nat) : Int :=
  match sd.pattern with
  | none => ((n * sd.size : Nat) : Int)
  | some p => APReg.offset p n entry

/-- The base of a side, with its handle's number. -/
def Side.origin (sd : Side) (num : Nat := 0) : Base :=
  match sd.view with
  | some h => .view num h
  | none => .plain sd.base

/-- A side's request. -/
def Side.req (sd : Side) (q : Req) (write : Bool) : Req := { q with write, covered := sd.view.isSome }

/-- A location for WSLOAD's destination: a weight store that the context owns or may take (R215, R293). -/
def State.locateStore (s : State) (q : Req) (va : Word) : Except Trap Located :=
  match regionOf q.place.die va with
  | .weights die off =>
    match (s.die die).storeOwner with
    | some owner => if owner = q.asid then .ok (.at_ (.weights (weightAddr die off))) else .error { cause := .protection, addr := va }
    | none => .ok (.at_ (.weights (weightAddr die off)))
  | _ => .error { cause := .protection, addr := va }

/-- The first of the addresses that a condition picks. -/
def firstAddr (l : List Word) (p : Word → Bool) : Option Word := l.find? p

/-- The checks of R285 on the elements of a side at byte offsets `offs`, kind by kind (R147). `store` marks WSLOAD's
destination; `stride` says that the base or a stride is no multiple of the element's size. -/
def State.checkSide (s : State) (q : Req) (b : Base) (size : Nat) (offs : List Int) (store : Bool) (stride : Bool) :
    Except Trap (List (Word × Located)) := do
  let at_ := offs.map fun o => (o, s.addrAt q.asid b o)
  let addrs := at_.map (·.2)
  let raise (c : Cause) (info : Word) (r : Option Word) : Except Trap Unit :=
    match r with
    | some va => .error { cause := c, addr := va, info }
    | none => .ok ()
  raise .protection 0 (firstAddr addrs fun va => decide (2 ^ 56 ≤ va.toNat) || regionOf q.place.die va == .unassigned)
  raise .misalignedAccess 0 (if stride then some ((firstAddr addrs fun va => va.toNat % size != 0).getD (s.addrAt q.asid b 0)) else
    firstAddr addrs fun va => va.toNat % size != 0)
  match at_.find? fun p => b.refuses p.1 size || q.write && b.readOnly with
  | some (o, va) => throw { cause := if b.refuses o size then .viewBound else .sharedWrite, addr := va, info := b.number }
  | none => pure ()
  if !store then
    raise .weightStoreWrite 0 (if q.write then firstAddr addrs fun va =>
      match regionOf q.place.die va with | .weights _ _ => true | _ => false else none)
  at_.mapM fun p => do return (p.2, ← if store then s.locateStore q p.2 else s.locateFor q p.2)

/-- The base or a stride of a side is no multiple of the element's size (R285). -/
def State.sideMisaligned (s : State) (q : Req) (sd : Side) : Bool :=
  (s.addrAt q.asid sd.origin 0).toNat % sd.size != 0 ||
  sd.pattern.elim false fun p => (List.range (APReg.dims p)).any fun j => APReg.stride p j % sd.size != 0

/-- The elements of an affine side, checked; an indexed side is checked while the command runs. -/
def State.checkAffine (s : State) (q : Req) (sd : Side) (num n : Nat) (write store : Bool) :
    Except Trap (List (Word × Located)) :=
  if sd.indexed then .ok []
  else s.checkSide (sd.req q write) (sd.origin num) sd.size ((List.range n).map fun k => sd.offset k 0) store
    (s.sideMisaligned q sd)

/-- The scratchpad range of a checked side (R289). -/
def claimOf (sd : Side) (write : Bool) (l : List (Word × Located)) : List Claim :=
  if sd.indexed then [{ lo := 0, hi := 0x50000, write }]
  else
    let offs := l.filterMap fun p => match p.2 with | .at_ (.scratch off _) => some off | _ => none
    match offs with
    | [] => []
    | o :: rest => [{ lo := rest.foldl min o, hi := rest.foldl max o + sd.size, write }]

/-- A protected page on the source side with a destination outside the class (R285, R221): the source's address. -/
def egress (src dst : List (Word × Located)) : Option Word :=
  let prot (l : Located) : Option Bool :=
    match l with
    | .at_ (.page x) => some (Entry.cls x.entry == 3)
    | .at_ _ => some false
    | .absent _ => none
  if dst.any fun p => prot p.2 == some false then (src.find? fun p => prot p.2 == some true).map (·.1) else none

/-! Promises (R288). -/

/-- Hops between two dies of the 2 × 2 package (R384). -/
def hops (a b : Nat) : Nat := popCount 2 (Nat.xor a b)

/-- The die that a physical address of Dolevo memory or of a weight store belongs to (R219). -/
def homeDie (pa : Nat) : Nat := if pa < 2 ^ 40 then pa / 2 ^ 37 else (pa - 2 ^ 40) / 2 ^ 32

/-- The row of the table of R288 for an address; `cached` says that the side was held in a second-level cache. -/
def rowOf (die : Nat) (l : Located) (cached : Bool) (unknown : Nat) : Nat :=
  match l with
  | .at_ (.scratch _ _) => 40
  | .at_ (.weights pa) => 600 + 300 * hops die (homeDie pa)
  | .at_ (.page x) =>
    if cached then 200
    else if 2 ^ 51 ≤ x.pa then 4000
    else 600 + 300 * hops die (homeDie x.pa)
  | .absent _ => unknown

/-- A row of the table that a choice picks. -/
def rowChoice (rows : List Nat) : Op Nat := do
  let c ← choose
  pure (rows.getD (c % rows.length) 0)

/-- The rows of Dolevo memory by the hops to it, and of host memory: what a page that is not resident can turn out to be. -/
def pageRows : List Nat := [600, 900, 1200, 4000]

/-- L of a side. What the second-level caches hold, and where a page that is not resident will lie, are choices. -/
def sideLatency (l : List (Word × Located)) : Op Nat := do
  let s ← get
  let cached := (← choose) != 0
  let unknown ← if l.any fun p => match p.2 with | .absent _ => true | _ => false then rowChoice pageRows else pure 0
  pure ((l.map fun p => rowOf s.hart.place.die p.2 cached unknown).foldl max 0)

/-- The places of a side's index list (R288). -/
def State.listPlaces (s : State) (q : Req) (sd : Side) : List (Word × Located) :=
  match sd.pattern with
  | some p =>
    if APReg.indexed p then
      (List.range (APReg.count p (APReg.dims p - 1))).map fun k =>
        let va := sd.list + word (4 * k)
        (va, (s.locate q va).toOption.getD (.absent false))
    else []
  | none => []

/-- L of an indexed side: its list's, and a row by choice for the elements, which are not known at the push; 0 of another side. -/
def listLatency (q : Req) (sd : Side) : Op Nat := do
  if sd.indexed then
    let l ← sideLatency ((← get).listPlaces q sd)
    pure (max l (← rowChoice (40 :: 200 :: pageRows)))
  else pure 0

/-- The promise of a command (R288), written into x[D]; none lies beyond the last value of the chip counter. -/
def givePromise (d : Reg) (latency bytes : Nat) : Op Unit := do
  let s ← get
  let start := max s.cycle.toNat s.hart.promise.toNat
  let p := word (min (2 ^ 64 - 1) (start + latency + ceilDiv bytes 64))
  modHart fun h => { h with promise := p }
  setX d p

/-- Put a command, whose promise has been given, at the end of the hart's queue. The push releases the hart's older accesses: its die's
agents see them, and every store of the command follows them for the other dies (R264, R289). -/
def pushCmd (kind : CmdKind) (after : Bool) (claims : List Claim) (ring : Option (Word × BitVec 32)) : Op Unit := do
  releaseOp 3
  modify fun s =>
    let h := s.hart
    { s with cmds := s.cmds ++ [{
        place := h.place, asid := h.accessAsid, kind, after, claims, ring, epc := h.pc, promise := h.promise
        taskid := h.csr.taskid, nodeid := h.csr.nodeid, ordered := s.seenStores h.place }] }

/-! Format E commands (R284). -/

def EOp.dpat (o : EOp) : Nat := o.imm.toNat % 8
def EOp.hasDst (o : EOp) : Bool := o.imm.getLsbD 3
def EOp.list (o : EOp) : Reg := BitVec.ofNat 6 (o.imm.toNat / 16)
def EOp.listOfDst (o : EOp) : Bool := o.imm.getLsbD 10
def EOp.srcView (o : EOp) : Bool := o.fl.getLsbD 0
def EOp.dstView (o : EOp) : Bool := o.fl.getLsbD 1

/-- The scalars that the access unit reads for a command. -/
def commandReads (o : EOp) : List Reg :=
  (if EOp.srcView o then [] else [o.b]) ++ (if EOp.dstView o then [] else [o.c]) ++ (if o.rv = 1 then [o.rs] else []) ++
    if EOp.list o = 0 then [] else [EOp.list o]

/-- The command writes into its slot's buffer (R296). -/
def usesBuffer (o : EOp) : Bool := o.rv == 1 && o.c == 0 && !EOp.dstView o

/-- The source side as a command takes it. -/
def State.srcSide (s : State) (o : EOp) : Side :=
  let p := s.hart.getAP o.a.toNat
  { pattern := some p, size := APReg.size p, base := s.x o.b, list := s.x (EOp.list o)
    view := if EOp.srcView o then some (s.hart.getH o.b.toNat) else none }

/-- The destination side; `size` is the element's size where it is contiguous. -/
def State.dstSide (s : State) (o : EOp) (size : Nat) : Side :=
  let p := s.hart.getAP (EOp.dpat o)
  { pattern := if EOp.hasDst o then some p else none, size := if EOp.hasDst o then APReg.size p else size
    base := s.x o.c, list := s.x (EOp.list o)
    view := if EOp.dstView o then some (s.hart.getH o.c.toNat) else none }

/-- The pattern checks of R285 in the order of its list, then those of the command's own entry; `sizeOk` and `dsize` are the
command's own: EINFO of the first that fails. -/
def patternFault (o : EOp) (src : Side) (dst : Side) (sizeOk : Bool) (dsize : Nat) : Option Nat :=
  let bad (p : Side) := p.pattern.elim false fun p => !(APReg.wellFormed p)
  let unlisted (p : Side) (named : Bool) := p.indexed != (EOp.list o != 0 && named)
  if bad src then some 1
  else if bad dst then some 2
  else if unlisted src !(EOp.listOfDst o) then some 1
  else if unlisted dst (EOp.listOfDst o) then some 2
  else if !sizeOk then some 1
  else if dst.size != dsize then some 2
  else if dst.pattern.elim false fun p => APReg.total p != src.pattern.elim 0 APReg.total then some 3
  else none

/-- The claim of a ring slot, if the command names a ring. -/
def claimIf (ring : Option Word) (need : Option Nat) : Op (Option (BitVec 32 × Ring × Target)) :=
  match ring with
  | some r => some <$> claimSlot r need
  | none => pure none

def commitIf (claim : Option (BitVec 32 × Ring × Target)) : Op Unit := claim.elim (pure ()) commitClaim

/-- The context takes the weight store of a die that it is to fill, if it has no owner (R215, R293). -/
def State.ownStore (s : State) (asid : Asid) (die : Nat) : State :=
  s.setDie die { s.die die with storeOwner := some ((s.die die).storeOwner.getD asid) }

/-- The dies whose weight stores the checked elements lie in; of an index list, the one that the base lies in (R293). -/
def storeDies (q : Req) (dst : Side) (into : List (Word × Located)) : List Nat :=
  let at_ (va : Word) : Option Nat := match regionOf q.place.die va with | .weights die _ => some die | _ => none
  sortDistinct ((if dst.indexed then [dst.base] else into.map (·.1)).filterMap at_)

/-- WSLOAD at dispatch: no store that it fills has another owner, and each becomes the context's (R215, R293). -/
def takeStores (q : Req) (dst : Side) (into : List (Word × Located)) : Op (Op Unit) := do
  let s ← get
  let dies := storeDies q dst into
  trapIf (dies.any fun d => (s.die d).storeOwner.elim false (· != q.asid)) .protection dst.base
  pure (modify fun s => dies.foldl (fun s d => s.ownStore q.asid d) s)

/-- Dispatch of a command with two sides: the checks of R285 in order, the claim of a slot, the promise. The claim comes last, but where
the destination is the slot's buffer, whose address it gives. `mk` makes the command from the element count and its sides. -/
def pushCopy (o : EOp) (sizeOk : Nat → Bool) (dsize : Nat → Nat) (store : Bool) (mk : State → Nat → Side → Side → CmdKind) :
    Op Unit := do
  auReads (commandReads o)
  let s ← get
  let q := s.hart.req
  let src := s.srcSide o
  let dst := s.dstSide o (dsize src.size)
  match patternFault o src dst (sizeOk src.size) (dsize src.size) with
  | some k => illegal (word k)
  | none => pure ()
  let n := src.pattern.elim 0 APReg.total
  let from_ ← check (s.checkAffine q src o.b.toNat n false false)
  let ring := if o.rv = 1 then some (s.x o.rs) else none
  let early ← if usesBuffer o && !store then claimIf ring (some (n * dst.size)) else pure none
  let dst := early.elim dst fun c => { dst with base := c.2.1.bufferAt c.1 }
  let into ← check (s.checkAffine q dst o.c.toNat n true store)
  match egress from_ into with
  | some va => trap .protectedEgress va
  | none => pure ()
  let own ← if store then takeStores q dst into else pure (pure ())
  let claim ← if early.isSome then pure early else claimIf ring none
  own
  commitIf claim
  let l1 ← sideLatency from_
  let l2 ← sideLatency into
  let l3 ← listLatency q src
  let l4 ← listLatency q dst
  givePromise o.d (max (max l1 l2) (max l3 l4)) (n * dst.size)
  pushCmd (mk s n src dst) (o.fl.getLsbD 3) (claimOf src false from_ ++ claimOf dst true into)
    (claim.map fun c => (s.x o.rs, c.1))

/-- COPY (R290). -/
def execCopy (o : EOp) (s : State) : Host.Outcome State Fault Refusal :=
  finishNext (.copy o) (pushCopy o (fun _ => true) (fun k => k) false fun _ n src dst => .copy n src dst) s

/-- CONV, RMODE and SATC of COPYCV (R291). -/
def copyConv (o : EOp) : Nat := o.cmod.toNat / 128 % 4
def copyMode (o : EOp) : Nat := o.cmod.toNat / 32 % 4
def copySat (o : EOp) : Bool := o.cmod.getLsbD 4

/-- COPYCV (R291). -/
def execCopycv (o : EOp) (s : State) : Host.Outcome State Fault Refusal :=
  finishNext (.copycv o) (pushCopy o (fun k => k == if copyConv o < 2 then 2 else 1) (fun _ => if copyConv o < 2 then 1 else 2) false
    fun s n src dst => .copyCv n (copyConv o) (copyMode o) (copySat o) src dst s.hart.csr.srseed s.hart.csr.srbase) s

/-- WSLOAD (R293). -/
def execWsload (o : EOp) (s : State) : Host.Outcome State Fault Refusal :=
  finishNext (.wsload o) (pushCopy o (fun k => k == 8) (fun _ => 8) true fun _ n src dst => .wsload n src dst) s

/-- MKOUT (R392 to R394). -/
def execMkout (o : EOp) (s : State) : Host.Outcome State Fault Refusal :=
  finishNext (.mkout o) (do
    auReads ([o.b, o.c] ++ if o.rv = 1 then [o.rs] else [])
    let s ← get
    let q := s.hart.req
    let p := s.hart.getAP o.a.toNat
    let w := APReg.count p 0
    let h := APReg.count p 1
    let side (n : Nat) := n % 8 == 0 && decide (8 ≤ n) && decide (n ≤ 16384)
    if !(APReg.wellFormed p && !APReg.indexed p && APReg.dims p == 2 && APReg.esz p == 0 && APReg.stride p 0 == 1 && side w &&
      side h && decide ((w : Int) ≤ APReg.stride p 1)) then illegal 1
    let src : Side := { pattern := some p, size := 1, base := s.x o.b }
    let total := ceilDiv (w * h) 128 * 128 + 4096
    let from_ ← check (s.checkAffine q src 0 (w * h) false false)
    let ring := if o.rv = 1 then some (s.x o.rs) else none
    let early ← if o.c == 0 then claimIf ring (some total) else pure none
    let base := early.elim (s.x o.c) fun c => c.2.1.bufferAt c.1
    trapIf (base.toNat % 128 != 0) .misalignedAccess base
    let dst : Side := { pattern := none, size := 1, base }
    let into ← check (s.checkAffine q dst 0 total true false)
    let mark := s.marks.get {} q.asid.toNat
    trapIf (decide (0xFFFFFFFF < mark.counter)) .protection base
    let claim ← if early.isSome then pure early else claimIf ring none
    modify fun s => { s with marks := s.marks.set {} q.asid.toNat { mark with counter := mark.counter + 1 } }
    commitIf claim
    let l1 ← sideLatency from_
    let l2 ← sideLatency into
    givePromise o.d (max l1 l2) total
    pushCmd (.mkout src dst w h (o.cmod.toNat / 128) mark.identifier (BitVec.ofNat 32 mark.counter)) (o.fl.getLsbD 3)
      (claimOf src false from_ ++ claimOf dst true into) (claim.map fun c => (s.x o.rs, c.1))) s

/-! COPYSEG is performed whole at dispatch (R292). -/

/-- The fields of COPYSEG: F, the permutation register. -/
def segFields (o : EOp) : Nat := o.cmod.toNat / 64 + 1
def segPerm (o : EOp) : Option Nat := if o.cmod.getLsbD 5 then some (o.imm.toNat % 64) else none

/-- Records, fields and destinations of a de-interleave: element e of field f comes from record `rec e` (R292). The checks are made on the
elements that are read, and on no record that no element names (DESIGN CHOICE, notes/assumptions/108.md). -/
def deinterleave (q : Req) (b : Base) (c : Cfg) (fields : Nat) (dest : Nat) (n : Nat) (rec_ : Nat → Nat) (recAt : Nat → Int)
    (active : Nat → Bool := fun _ => true) (mz : Bool := false) : Op Unit := do
  let bytes := c.bytes
  let s ← get
  let elems : List Elem := (List.range fields).flatMap fun f => (List.range c.vl).filterMap fun e =>
    if active e && decide (rec_ e < n) then some { idx := f * c.vl + e, off := recAt (rec_ e) + ((f * bytes : Nat) : Int) } else none
  let placed ← check (s.precheck q b bytes elems)
  holdFor q (targetsOf placed) bytes
  let absent := placed.filterMap fun p => match p.loc with | .absent bad => some { va := p.va, bad : Missing } | _ => none
  modify fun s => (targetsOf placed).foldl (fun s t => s.touch q t) s
  let s ← get
  let poisoned := placed.filterMap fun p => match p.loc with
    | .at_ t => if s.poisonAt q t bytes then some (p.idx, p.va) else none
    | _ => none
  let firstAbsent := (placed.find? fun p => match p.loc with | .absent _ => true | _ => false).map (·.idx)
  match poisoned with
  | (k, va) :: rest =>
    if firstAbsent.elim true fun j => decide (k < j) then
      trap .poisonedData ((rest.map (·.2)).foldl (fun a b => if b < a then b else a) va)
    else pageFault q 0 absent true
  | [] => if absent.isEmpty then pure () else pageFault q 0 absent true
  let vals ← placed.mapM fun p => match p.loc with
    | .at_ t => do return (p.idx, ← readTarget q t bytes false)
    | _ => pure (p.idx, 0)
  modHart fun h => { h with own := (List.range fields).foldl (fun own f =>
    own.setReg (dest + f) (packElems c.w ((List.range (2048 / c.w)).map fun e =>
      let old := elemAt c.w (own.reg (dest + f)) e
      destElem c (active e) mz e old (((vals.find? fun v => v.1 == f * c.vl + e).map (·.2)).getD 0)))) h.own }

/-- The places of the records of a sequence, field by field, for the promise (R288). -/
def State.recordPlaces (s : State) (q : Req) (b : Base) (p : APReg) (fields bytes : Nat) : List (Word × Located) :=
  (List.range (APReg.total p)).flatMap fun r => (List.range fields).map fun f =>
    let va := s.addrAt q.asid b (APReg.offset p r 0 + ((f * bytes : Nat) : Int))
    (va, (s.locate q va).toOption.getD (.absent false))

/-- COPYSEG (R292). A vP in stream mode is popped (R278). -/
def execCopyseg (o : EOp) (s : State) : Host.Outcome State Fault Refusal :=
  finishNext (.copyseg o) (do
    auReads (if EOp.srcView o then [] else [o.b])
    let s ← get
    let c := s.cfg
    let fields := segFields o
    let dest := o.c.toNat
    let vregs := min 64 s.hart.task.vregs
    let dests := (List.range fields).map (dest + ·)
    illegalIf (!(isDefined c.fmt && 8 ≤ c.w && c.g == 1) || decide (vregs < dest + fields) ||
      ((segPerm o).elim false fun v => decide (128 < c.vl) || dests.contains v || decide (vregs ≤ v)) ||
      dests.any fun r => (s.hart.stream r).isSome)
    let perm : List Opd := (segPerm o).toList.map fun v => { r := v, g := 1 }
    trapIf (s.hart.misusesStream c.w [] perm) .streamMisuse 0 2
    let p := s.hart.getAP o.a.toNat
    if !(APReg.wellFormed p && !APReg.indexed p) then illegal 1
    let b : Base := if EOp.srcView o then .view o.b.toNat (s.hart.getH o.b.toNat) else .plain (s.x o.b)
    let q := s.hart.req (covered := b.covered)
    let n := APReg.total p
    withStreams c.vl perm do
      let h := (← get).hart
      let rec_ (e : Nat) : Nat := (segPerm o).elim e fun v => h.indexElem c 16 v (h.own.reg v) e
      wholly (deinterleave q b c fields dest n rec_ fun r => APReg.offset p r 0)
      let l ← sideLatency ((← get).recordPlaces q b p fields c.bytes)
      givePromise o.d l (((List.range c.vl).countP fun e => decide (rec_ e < n)) * fields * c.bytes)) s

/-! ADRAINM (R298 to R300). -/

/-- Dimension k of a shape record: extent, origin, stride (R299). -/
def shapeExt (p : APReg) (k : Nat) : Nat := bitsAt p.toNat (64 + 32 * k) 32
def shapeOrig (p : APReg) (k : Nat) : Int := toSigned 32 (bitsAt p.toNat (192 + 32 * k) 32)
def shapeStride (p : APReg) (k : Nat) : Int := toSigned 48 (bitsAt p.toNat (320 + 48 * k) 48)
def shapeRank (p : APReg) : Nat := bitsAt p.toNat 0 3

/-- The offset of cell (s0 + i, j), none if it is clipped (R299). -/
def shapeOffset (p : APReg) (i j : Nat) : Option Int :=
  let t (k : Nat) : Int := shapeOrig p k + (if k = 0 then (j : Int) else if k = 1 then (i : Int) else 0)
  let dims := List.range (shapeRank p)
  if dims.all fun k => decide (0 ≤ t k) && decide (t k < shapeExt p k) then
    some (dims.foldl (fun acc k => acc + t k * shapeStride p k) 0)
  else none

/-- The unclipped cells of a drain: cell index, element number and offset. -/
def DrainJob.cells (j : DrainJob) : List (Nat × Nat × Int) :=
  (List.range (j.ns * j.tile.win)).filterMap fun n =>
    (shapeOffset j.shape (n / j.tile.win) (n % j.tile.win)).map fun off => (j.s0 * j.tile.win + n, n, off)

def DrainJob.size (j : DrainJob) : Nat := container j.fmt / 8

/-- The ring scalar and its flag, and the maximum's scalar. -/
def drainRing (o : GOp) : Option Reg := if o.x.getLsbD 4 then some (BitVec.ofNat 6 (o.x.toNat / 32)) else none
def drainMaxReg (o : GOp) : Option Reg := if o.x.getLsbD 1 then some (BitVec.ofNat 6 (o.imm.toNat / 2 ^ 20)) else none

/-- ADRAINM (R187, R298 to R300). The maximum's word is checked after the elements and before the claim of a slot (DESIGN CHOICE,
notes/assumptions/104.md). -/
def execAdrainm (o : GOp) (s : State) : Host.Outcome State Fault Refusal :=
  finishNext (.adrainm o) (do
    auReads ([o.b, o.c] ++ (drainRing o).toList ++ (drainMaxReg o).toList)
    let s ← get
    let c := s.cfg
    let q := s.hart.req
    let s0 := o.imm.toNat % 1024
    let ns := o.imm.toNat / 1024 % 1024 + 1
    match s.hart.tile? o.a.toNat with
    | none => illegal
    | some t => do
      illegalIf (decide (t.slots < s0 + ns))
      let shape ← loadAt (.plain (s.x o.c)) 0 64
      let s ← get
      let shape : APReg := BitVec.ofNat 512 shape
      if shapeRank shape = 0 || 4 < shapeRank shape || bitsAt shape.toNat 3 61 != 0 then illegal 1
      let add := o.x.getLsbD 3
      illegalIf (!(isInt c.fmt || isFp c.fmt) || (add && !isWord32 c.fmt))
      if add && c.fmt == 0x0A then refuseDet 0x82 0x03 (s.x o.b) else pure ()
      let job : DrainJob :=
        { tile := t, name := o.a.toNat, fmt := c.fmt, s0, ns
          mode := (if o.fl = 0 then s.hart.csr.frm.toNat else o.fl.toNat) % 8
          seed := s.hart.csr.srseed, srbase := s.hart.csr.srbase, sat := o.x.getLsbD 2, add
          maxAt := (drainMaxReg o).map s.x, base := s.x o.b, shape, paired := s.hart.pair }
      let b : Base := .plain job.base
      let wq := { q with write := true, atomic := add }
      let into ← check (s.checkSide wq b job.size (job.cells.map (·.2.2)) false false)
      let word ← (match job.maxAt with
        | some a => do
          let t ← checkMaximum a
          pure [(a, Located.at_ t)]
        | none => pure [])
      let claim ← claimIf ((drainRing o).map s.x) none
      commitIf claim
      let l ← sideLatency into
      givePromise o.d l (job.cells.length * job.size)
      pushCmd (.adrainm job) false (claimOf { pattern := none, size := job.size, base := 0 } true into ++
          claimOf { pattern := none, size := 4, base := 0 } true word) (claim.map fun c => (((drainRing o).map s.x).getD 0, c.1))
      if o.x.getLsbD 0 then modify (·.retireName o.a.toNat) else pure ()) s

end Sys2Proof.Machine
end

