-- ==== Sys2Proof/Machine/Sieve.lean ====
section
/-!
DEFINITION. The Sieve: bin sets, appends, application in canonical order, and the instructions of OPC 0xB3 (18:R314 to R321).
-/

namespace Sys2Proof.Machine

/-- A descriptor as its 64 bytes say (R314). -/
def setOf (asid : Asid) (die : Nat) (address : Word) (pa : Nat) (graph : Option Nat) (v : Nat) : BinSet :=
  { asid, die, address, pa, tbase := word (bitsAt v 0 64), tlen := bitsAt v 96 32, cap := bitsAt v 80 16,
    rsz := bitsAt v 72 3, int32 := v.testBit 64, node := bitsAt v 160 32, graph, nsub := bitsAt v 128 32,
    pool := word (bitsAt v 192 64) }

/-- The checks of BINIT with EINFO 1 (R319). -/
def descriptorOk (v : Nat) (b : BinSet) : Bool :=
  bitsAt v 75 5 == 0 && bitsAt v 65 7 == 0 && bitsAt v 262 25 == 0 && bitsAt v 320 192 == 0 && 1 ≤ b.tlen && 512 ≤ b.cap &&
  b.rsz ≤ 6 && 2 ≤ b.nsub && b.tbase.toNat % 4 == 0 && b.pool.toNat % 128 == 0

/-- The doubleword at offset 0x20 (R314). -/
def BinSet.status (b : BinSet) (active : Bool) : Nat := b.horizon % 2 ^ 32 * 2 ^ 32 + (if active then 2 ^ 31 else 0) + b.flags.toNat

def State.set? (s : State) (pa : Nat) : Option BinSet := s.sets.find? (·.pa == pa)

/-- Hold a set and write its doubleword. -/
def State.putSet (s : State) (b : BinSet) : State :=
  { (s.putObject (b.pa + 0x20) (toBytes 8 (b.status true))) with
    sets := s.sets.map fun c => if c.pa == b.pa then b else c }

/-- Clear ACTIVE (R321). -/
def State.dropSet (s : State) (b : BinSet) : State :=
  { (s.putObject (b.pa + 0x20) (toBytes 8 (b.status false))) with sets := s.sets.filter fun c => c.pa != b.pa }

/-- The request of the Sieve of a set. -/
def BinSet.req (b : BinSet) : Req :=
  { place := dieUnit b.die, asid := b.asid, write := true, after := b.ordered }

/-- A hart's task is a tile of NODE in the launch that BINIT recorded (R319). -/
def BinSet.hasTile (b : BinSet) (h : Hart) : Bool :=
  match h.task.ref, b.graph with
  | some r, some g => r.graph == g && r.node == b.node
  | _, _ => false

/-! Sub-bins. -/

def BinSet.bin (b : BinSet) (tile : Nat) : SubBin := (b.bins.find? (·.tile == tile)).getD { tile }

def BinSet.setBin (b : BinSet) (v : SubBin) : BinSet := { b with bins := v :: b.bins.filter (·.tile != v.tile) }

def BinSet.dropBin (b : BinSet) (tile : Nat) : BinSet := { b with bins := b.bins.filter (·.tile != tile) }

/-- Free spaces of the pool. -/
def BinSet.free (b : BinSet) : Nat := b.nsub - b.bins.countP (·.space)

/-- The tile may take a space now: one is held back for the horizon (R316). -/
def BinSet.mayTake (b : BinSet) (tile : Nat) : Bool :=
  let h := b.bin b.horizon
  if tile == b.horizon || h.space || h.sealed then 1 ≤ b.free else 2 ≤ b.free

/-- The region of an entry. -/
def BinSet.region (b : BinSet) (e : BinEntry) : Nat := 4 * e.index / 2 ^ (b.rsz + 12)

def BinSet.wordAt (b : BinSet) (e : BinEntry) : Word := b.tbase + word (4 * e.index)

/-- What stops an entry: a page that is not resident, for a read of the pool or a write of the target, or a late failure (R317). -/
inductive EntryStop where
  | absent (q : Req) (va : Word) (bad : Bool)
  | failure (cause : Cause) (va : Word)
  deriving DecidableEq, Repr

/-- The place in the pool of an entry of a tile's sub-bin (R314, R315). -/
def BinSet.poolAt (b : BinSet) (tile : Nat) (e : BinEntry) : Word :=
  b.pool + word (8 * (b.cap * (b.bin tile).place + e.at_ % b.cap))

/-- The request for the pool of a set. -/
def BinSet.poolReq (b : BinSet) : Req := { b.req with write := false, only := [0] }

/-- The page of an entry's place in the pool: it must be resident, of ordinary class by a fresh walk (R230, R317, R319). -/
def State.poolTarget (s : State) (q : Req) (va : Word) : Except EntryStop Target :=
  if 2 ^ 56 ≤ va.toNat || regionOf q.place.die va != .paged then .error (.failure .protection va)
  else
    match s.translate q va with
    | .hit x => if Entry.cls x.entry = 0 then .ok (.page x) else .error (.failure .protection va)
    | .absent bad => .error (.absent q va bad)
    | .poisoned => .error (.failure .poisonedData va)

/-- The target word of an entry of a tile's sub-bin. -/
def State.entryTarget (s : State) (b : BinSet) (tile : Nat) (e : BinEntry) : Except EntryStop Target :=
  let va := b.wordAt e
  match s.poolTarget b.poolReq (b.poolAt tile e) with
  | .error stop => .error stop
  | .ok _ =>
    match s.checkAccess { b.req with only := [0, 2] } (.plain va) 0 4 with
    | .error t => .error (.failure t.cause va)
    | .ok (_, .absent bad) => .error (.absent b.req va bad)
    | .ok (_, .at_ (.page x)) =>
      if (s.settle b.req x.pa 4).poisonIn b.req.place x.pa x.pa 4 then .error (.failure .poisonedData va) else .ok (.page x)
    | .ok (_, .at_ _) => .error (.failure .protection va)

/-- The Sieve's access to a place in the pool sets A there, and D where it writes (R229). -/
def State.touchPool (s : State) (q : Req) (va : Word) : State :=
  match s.poolTarget q va with
  | .ok t => s.touch q t
  | .error _ => s

/-- Apply one entry of a tile's sub-bin, read from the pool (R315). -/
def State.applyEntry (s : State) (b : BinSet) (tile : Nat) (e : BinEntry) (t : Target) : State × Flags :=
  let (s, _, fl) := (s.touchPool b.poolReq (b.poolAt tile e)).atomicAt b.req t 4 fun x =>
    if b.int32 then (some ((x + e.value.toNat) % 2 ^ 32), 0)
    else
      let (v, fl) := addStep { mode := .rne } x (fp32.value e.value.toNat)
      (some v, fl)
  (s, fl)

/-- The longest run of entries that can be applied, and what stops the next. -/
def State.applicable (s : State) (b : BinSet) (tile : Nat) : List BinEntry → List (BinEntry × Target) × Option EntryStop
  | [] => ([], none)
  | e :: rest =>
    match s.entryTarget b tile e with
    | .error stop => ([], some stop)
    | .ok t =>
      let (l, stop) := s.applicable b tile rest
      ((e, t) :: l, stop)

/-- The requester fields of an application pass (R363). -/
def sieveRequester (b : BinSet) (tile : Nat) : Requester :=
  { src := 3, epc := 0, die := b.die, core := 0xFF, slot := 3, taskid := tile, node := b.node }

/-- Apply entries of a tile's sub-bin in order (R315). -/
def State.applyEntries (s : State) (b : BinSet) (tile : Nat) (l : List (BinEntry × Target)) : State × Flags :=
  l.foldl (fun acc p =>
    let (s, fl) := acc.1.applyEntry b tile p.1 p.2
    (s, acc.2 ||| fl)) (s, 0)

/-- A set meets a late failure (R317); a protection that a walk has confirmed leaves no TLB copy of the page (R230). -/
def State.failSet (s : State) (b : BinSet) (cause : Cause) (va : Word) : State × BinSet :=
  (if cause = .protection then s.dropCopies b.req.place b.asid va else s, { b with failure := some (cause, va) })

/-- A list without the first `n` of its members that `p` picks. -/
def dropPicked {α : Type} (p : α → Bool) : Nat → List α → List α
  | 0, l => l
  | _, [] => []
  | n + 1, a :: rest => if p a then dropPicked p n rest else a :: dropPicked p (n + 1) rest

/-- A set without the first `n` entries of a region in a tile's sub-bin, which have been applied, with the flags of their additions. -/
def BinSet.applied (b : BinSet) (tile region n : Nat) (fl : Flags) : BinSet :=
  let bin := b.bin tile
  { b.setBin { bin with entries := dropPicked (b.region · == region) n bin.entries } with flags := b.flags ||| fl }

/-- One region's pass over the entries of a tile's sub-bin (R316, R317): whole, up to a failing entry, or not at all when a page is
missing; then its record is written, for which a full queue makes the pass wait (R362). A pass that waits writes no second one. From a
failing entry on the entries stay, for BREPLAY or BFLUSH to discard (R321). -/
def State.applyRegion (s : State) (b : BinSet) (tile : Nat) (region : Nat) : State × BinSet :=
  let bin := b.bin tile
  let (l, stop) := s.applicable b tile (bin.entries.filter (b.region · == region))
  match stop with
  | some (.absent q va bad) =>
    if b.blocked.isNone && s.queueTakes b.die 1 then (s.pushRecord b.die (sieveRequester b tile) q va bad 1, { b with blocked := some va })
    else (s, b)
  | stop =>
    let (s, fl) := s.applyEntries b tile l
    let b := b.applied tile region l.length fl
    match stop with
    | some (.failure c va) => s.failSet b c va
    | _ => (s, b)

/-- Apply the entries of a tile's sub-bin, region by region, until one stops (R316). -/
def State.applyRegions (s : State) (b : BinSet) (tile : Nat) : List Nat → State × BinSet
  | [] => (s, b)
  | r :: rest =>
    let (s, b) := s.applyRegion b tile r
    if b.blocked.isSome || b.failure.isSome || ((b.bin tile).entries.any fun e => b.region e == r) then (s, b)
    else s.applyRegions b tile rest

def State.applyBin (s : State) (b : BinSet) (tile : Nat) : State × BinSet :=
  s.applyRegions b tile (sortDistinct ((b.bin tile).entries.map b.region))

/-- Seal the ending tile's sub-bin in every set of its node (R316). -/
def State.sealBins (s : State) (h : Hart) : State :=
  s.sets.foldl (fun s b =>
    if b.hasTile h then s.putSet (b.setBin { b.bin h.csr.taskid.toNat with sealed := true }) else s) s

/-- A rerun discards the tile's sub-bin (R380). -/
def State.discardBins (s : State) (h : Hart) : State :=
  s.sets.foldl (fun s b => if b.hasTile h then s.putSet (b.dropBin h.csr.taskid.toNat) else s) s

/-- The application of the horizon's sealed sub-bin, and the advance of HORIZ (R316). -/
def State.sieveApply (s : State) (b : BinSet) : State :=
  let bin := b.bin b.horizon
  if bin.sealed && b.blocked.isNone && b.failure.isNone then
    let (s, b') := s.applyBin b b.horizon
    let b' := if b'.blocked.isSome || b'.failure.isSome || !(b'.bin b.horizon).entries.isEmpty then b' else { b'.dropBin b.horizon with horizon := b.horizon + 1 }
    s.putSet b'
  else s

/-! Appending (R316, R320). -/

/-- The set that a descriptor names, and the checks that every instruction but BINIT shares (R318). -/
def activeSet (a : Word) : Op BinSet := do
  let s ← get
  let t ← ringTarget s.hart.req a 64
  match (← get).set? t.pa with
  | some b => pure b
  | none => illegal 2

/-- The lowest space of the pool that no sub-bin holds. -/
def BinSet.freePlace (b : BinSet) : Nat :=
  ((List.range b.nsub).find? fun k => !(b.bins.any fun v => v.space && v.place == k)).getD 0

/-- Entries that the sub-bin has taken since it was empty. -/
def SubBin.taken (v : SubBin) : Nat := v.entries.foldl (fun n e => max n (e.at_ + 1)) 0

/-- Put entries of an append into a tile's sub-bin. -/
def BinSet.appendPart (b : BinSet) (tile : Nat) (items : List (Nat × Nat × BitVec 32)) : BinSet :=
  let bin := b.bin tile
  b.setBin { bin with
    space := bin.space || !items.isEmpty
    place := if bin.space then bin.place else b.freePlace
    part := bin.part + items.length
    entries := bin.entries ++ items.zipIdx.map fun p =>
      { count := bin.count, elem := p.1.1, index := p.1.2.1, value := p.1.2.2, at_ := bin.taken + p.2 } }

/-- Put the last entries of an append into a tile's sub-bin: one more append is counted. -/
def BinSet.append (b : BinSet) (tile : Nat) (items : List (Nat × Nat × BitVec 32)) : BinSet :=
  let b := b.appendPart tile items
  let bin := b.bin tile
  b.setBin { bin with count := bin.count + 1, part := 0 }

/-- Hold a set whose tile's sub-bin has taken entries beyond its first `n`: they are written to the pool, where it is resident (R229, R315). -/
def State.holdAppend (s : State) (b : BinSet) (tile n : Nat) : State :=
  let pages := sortDistinct (((b.bin tile).entries.drop n).map fun e => (b.poolAt tile e).toNat / 2 ^ 16)
  (pages.foldl (fun s p => s.touchPool { b.poolReq with write := true } (word (p * 2 ^ 16))) s).putSet b

/-- The set's later additions follow what the running hart can have seen (R264, R320). -/
def State.joinSet (s : State) (b : BinSet) : BinSet :=
  { b with ordered := sortDistinct (b.ordered.filter (fun k => s.pend.any (·.id == k)) ++ s.seenStores s.hart.place) }

/-- Append entries as the sub-bin has room. A sub-bin that is too full is applied at the horizon, and elsewhere the instruction waits; an
append that is longer than a sub-bin goes in by pieces (R316, R354; DEDUCED, notes/assumptions/33.md). A pass that stops before a missing
page makes the instruction wait; `part` says what it need not append again. -/
def appendPieces (tile : Nat) : Nat → BinSet → List (Nat × Nat × BitVec 32) → Op Unit
  | 0, _, _ => wait
  | fuel + 1, b, items =>
    let held := (b.bin tile).entries.length
    if held + items.length ≤ b.cap then modify fun s => s.holdAppend (b.append tile items) tile held
    else if tile != b.horizon || b.blocked.isSome then wait
    else do
      let (s, b) := (← get).applyBin b tile
      set (s.putSet b)
      markActed
      if b.failure.isSome then modify fun s => s.putSet (b.append tile [])
      else if !(b.bin tile).entries.isEmpty then wait
      else if items.length ≤ b.cap then modify fun s => s.holdAppend (b.append tile items) tile 0
      else do
        let b := b.appendPart tile (items.take b.cap)
        modify fun s => s.holdAppend b tile 0
        appendPieces tile fuel b (items.drop b.cap)

/-- Append entries of the running hart's tile: its earlier accesses are released, and it waits as R316 requires. What a set that has
failed takes is never applied (R317). -/
def appendEntries (b : BinSet) (items : List (Nat × Nat × BitVec 32)) : Op Unit := do
  let tile := (← get).hart.csr.taskid.toNat
  releaseOp 3
  let b := (← get).joinSet b
  let bin := b.bin tile
  let items := items.drop bin.part
  if items.isEmpty || b.failure.isSome then modify fun s => s.putSet (b.append tile [])
  else if !bin.space && !(b.mayTake tile) then wait
  else appendPieces tile (items.length + 1) b items

/-- The class of a page that is resident forbids it (R319). -/
def State.pageForbidden (s : State) (q : Req) (grids : Bool) (va : Word) : Bool :=
  if 2 ^ 56 ≤ va.toNat || regionOf q.place.die va != .paged then true
  else
    match s.translate { q with only := if grids then [0, 2] else [0] } va with
    | .hit x => Entry.cls x.entry != 0 && !(grids && Entry.cls x.entry == 2)
    | _ => false

/-- One address on each 64 KiB page of a range. -/
def pagesOf (a : Word) (bytes : Nat) : List Word :=
  (List.range ((a.toNat % 65536 + bytes + 65535) / 65536)).map fun k => if k = 0 then a else word ((a.toNat / 65536 + k) * 65536)

def execBinit (o : EOp) (s : State) : Host.Outcome State Fault Refusal :=
  finishNext (.binit o) (do
    auReads [o.c]
    let s ← get
    let q := s.hart.req (write := true)
    let a := s.x o.c
    let _ ← ringTarget { q with write := false } a 64
    let t ← ringTarget q a 64
    let v ← sliceRead q t 64
    let b := setOf q.asid q.place.die a t.pa (s.hart.task.ref.map (·.graph)) v
    if !(descriptorOk v b) then illegal 1
    if v.testBit 287 || ((← get).set? t.pa).isSome then illegal 2
    let s ← get
    let bad := (pagesOf b.tbase (4 * b.tlen)).find? (s.pageForbidden q true)
    let bad' := (pagesOf b.pool (8 * b.nsub * b.cap)).find? (s.pageForbidden q false)
    match bad.or bad' with
    | some va => trap .protection va
    | none => pure ()
    modify fun s => { (s.release q.place 4).settleAll (t.pa + 0x20) 8 with sets := b :: s.sets }
    modify fun s => s.putSet b
    markActed) s

/-- The active elements of BAPP: index and value of each. -/
def State.bappItems (s : State) (o : EOp) (c : Cfg) : List (Nat × Nat × BitVec 32) :=
  let ix := s.hart.own.group o.a.toNat c.g
  let vs := s.hart.own.group o.b.toNat c.g
  ((List.range c.vl).filter (s.hart.selected (o.cmod.toNat % 8))).map fun e =>
    (e, elemAt 32 ix e, BitVec.ofNat 32 (elemAt 32 vs e))

def execBapp (o : EOp) (s : State) : Host.Outcome State Fault Refusal :=
  finishNext (.bapp o) (do
    auReads [o.c]
    let b ← activeSet (s.x o.c)
    vectorOp (fun c => if b.int32 then c.fmt == 4 || c.fmt == 5 else c.fmt == 0x0A) (fun _ => [])
      (fun c => [Opd.of o.a c.g, Opd.of o.b c.g]) fun c => do
        let s ← get
        if !(b.hasTile s.hart) then illegal 3
        let items := s.bappItems o c
        match items.find? fun p => decide (b.tlen ≤ p.2.1) with
        | some p => trap .indexBound (b.tbase + word (4 * p.2.1)) (word p.1)
        | none => appendEntries b items) s

/-- BREPLAY and BFLUSH are engine commands (R321). -/
def pushBinCommand (o : EOp) (flush : Bool) : Op Unit := do
  auReads (o.c :: if o.rv = 1 then [o.rs] else [])
  let s ← get
  let b ← activeSet (s.x o.c)
  if !flush && b.hasTile s.hart then illegal 3
  let claim ← claimIf (if o.rv = 1 then some (s.x o.rs) else none) none
  commitIf claim
  let s ← get
  let l ← sideLatency ((pagesOf b.tbase (4 * b.tlen)).filterMap fun va =>
    match s.locate b.req va with
    | .ok l => some (va, l)
    | .error _ => none)
  givePromise o.d l (if flush then 0 else 4 * (b.bins.map (·.entries.length)).sum)
  pushCmd (if flush then .bflush b.pa else .breplay b.pa) false [] (claim.map fun c => (s.x o.rs, c.1))

def execBreplay (o : EOp) (s : State) : Host.Outcome State Fault Refusal := finishNext (.breplay o) (pushBinCommand o false) s

def execBflush (o : EOp) (s : State) : Host.Outcome State Fault Refusal := finishNext (.bflush o) (pushBinCommand o true) s

end Sys2Proof.Machine
end

