-- ==== Sys2Proof/Machine/Regions.lean ====
section
/-!
DEFINITION. Covered regions, OPC 0xC0: coverage words, handles, exports (19:R324 to R337).
-/

namespace Sys2Proof.Machine

/-- The arena granules that a view touches (R325). -/
def Handle.granules (h : Handle) : List Nat :=
  if Handle.live h && decide (Handle.lo h < Handle.hi h) then
    let first := Handle.lo h / 65536
    (List.range ((Handle.hi h - 1) / 65536 - first + 1)).map (Handle.region h + first + ·)
  else []

/-- ALLOC and COUNT of a coverage word (R324). -/
def Arena.word (a : Arena) (g : Nat) : BitVec 16 := a.counts.get 0 g
def Arena.allocated (a : Arena) (g : Nat) : Bool := (a.word g).getLsbD 15
def Arena.count (a : Arena) (g : Nat) : Nat := (a.word g).toNat % 2 ^ 15

def Arena.setWord (a : Arena) (g : Nat) (alloc : Bool) (count : Nat) : Arena :=
  { a with counts := a.counts.set 0 g (BitVec.ofNat 16 ((if alloc then 2 ^ 15 else 0) + count % 2 ^ 15)) }

/-- Change COUNT of one granule; ALLOC stays. -/
def Arena.bump (a : Arena) (up : Bool) (g : Nat) : Arena :=
  a.setWord g (a.allocated g) (if up then a.count g + 1 else a.count g - 1)

def State.mapArena (s : State) (asid : Asid) (f : Arena → Arena) : State :=
  { s with arenas := s.arenas.map fun a => if a.asid == asid then f a else a }

/-- COUNT changes by one on each granule of a list (R325). -/
def State.bumpAll (s : State) (asid : Asid) (up : Bool) (gs : List Nat) : State :=
  s.mapArena asid fun a => gs.foldl (·.bump up ·) a

def State.coverage (s : State) (asid : Asid) (g : Nat) : Nat := (s.arena asid).elim 0 (·.count g)

/-- The address of an arena granule. -/
def State.granuleAddr (s : State) (asid : Asid) (g : Nat) : Word := s.arenaBase asid + word (g * 65536)

/-- Drop the view of handle register `n`: the accesses made through it are released and its granules lose a count (R334, R338). -/
def State.dropView (s : State) (place : Place) (asid : Asid) (n : Nat) (v : Handle) : State :=
  if Handle.live v then (s.releaseView place n).bumpAll asid false (Handle.granules v) else s

/-- Drop the view that a destination handle holds (R329). -/
def dropHandle (d : Nat) : Op Unit := do
  modify fun s => s.dropView s.hart.place s.hart.accessAsid d (s.hart.getH d)
  modHart (·.setH d 0)

/-- The first granule whose COUNT, after the drop of `old`, cannot take one more (R329, R331). -/
def State.saturated (s : State) (asid : Asid) (old : Handle) (gs : List Nat) : Option Nat :=
  gs.find? fun g => s.coverage asid g - (if (Handle.granules old).contains g then 1 else 0) == 32767

def trapSaturated (asid : Asid) (old : Handle) (n : Nat) (gs : List Nat) : Op Unit := do
  let s ← get
  match s.saturated asid old gs with
  | some g => trap .coverageSaturation (s.granuleAddr asid g) (word n)
  | none => pure ()

/-- The lowest run of `n` granules with ALLOC = 0, searched from granule `g` on (R330). -/
def Arena.findRun (a : Arena) (n : Nat) : Nat → Nat → Nat → Option Nat
  | 0, _, _ => none
  | fuel + 1, g, run =>
    if a.allocated g then a.findRun n fuel (g + 1) 0
    else if run + 1 = n then some (g + 1 - n)
    else a.findRun n fuel (g + 1) (run + 1)

def State.freeRun (s : State) (asid : Asid) (n : Nat) : Option Nat :=
  (s.arena asid).bind fun a => a.findRun n a.granules 0 0

/-- Region instructions are acts of R380, but for VINFO. -/
def regionOp (i : Instr) (body : Op Unit) (s : State) : Host.Outcome State Fault Refusal :=
  finishNext i (do
    body
    markActed) s

def execRalloc (o : GOp) (s : State) : Host.Outcome State Fault Refusal :=
  regionOp (.ralloc o) (do
    auReads [o.a]
    let s ← get
    let size := (s.x o.a).toNat
    let asid := s.hart.accessAsid
    dropHandle o.d.toNat
    if size = 0 || 2 ^ 40 ≤ size then setX o.c 1
    else
      let n := ceilDiv size 65536
      match s.freeRun asid n with
      | none => setX o.c 2
      | some g => do
        modify fun s => s.mapArena asid fun a => (List.range n).foldl (fun a k => a.setWord (g + k) true 1) a
        modHart (·.setH o.d.toNat (mkHandle 0 size g true))
        setX o.c 0) s

/-- VFORK (R331): with D = A it is illegal (R329). -/
def execVfork (o : GOp) (s : State) : Host.Outcome State Fault Refusal :=
  regionOp (.vfork o) (do
    illegalIf (o.d == o.a)
    let s ← get
    let asid := s.hart.accessAsid
    let src := s.hart.getH o.a.toNat
    trapIf (!Handle.live src) .viewBound 0 (word o.a.toNat)
    trapSaturated asid (s.hart.getH o.d.toNat) o.a.toNat (Handle.granules src)
    dropHandle o.d.toNat
    modify fun s => s.bumpAll asid true (Handle.granules src)
    modHart (·.setH o.d.toNat (src &&& ~~~(2#128)))) s

def execVnarrow (o : GOp) (s : State) : Host.Outcome State Fault Refusal :=
  regionOp (.vnarrow o) (do
    auReads [o.b, o.c]
    let s ← get
    let asid := s.hart.accessAsid
    let v := s.hart.getH o.a.toNat
    trapIf (!Handle.live v) .viewBound 0 (word o.a.toNat)
    let b := s.x o.b
    let c := s.x o.c
    let lo := Handle.lo v + b.toNat
    let hi := Handle.lo v + c.toNat
    trapIf (decide (c < b) || decide (Handle.hi v < hi)) .widening 0 (if Handle.hi v < hi then c else b)
    if lo = hi then dropHandle o.a.toNat
    else
      let new := mkHandle lo hi (Handle.region v) (Handle.writable v)
      modify fun s => (s.releaseView s.hart.place o.a.toNat).bumpAll asid false ((Handle.granules v).filter fun g => !(Handle.granules new).contains g)
      modHart (·.setH o.a.toNat new)) s

def execVsplit (o : GOp) (s : State) : Host.Outcome State Fault Refusal :=
  regionOp (.vsplit o) (do
    illegalIf (o.d == o.a)
    auReads [o.b]
    let s ← get
    let asid := s.hart.accessAsid
    let v := s.hart.getH o.a.toNat
    trapIf (!Handle.live v) .viewBound 0 (word o.a.toNat)
    let t := s.x o.b
    trapIf (t == 0 || decide (Handle.hi v ≤ Handle.lo v + t.toNat)) .viewBound 0 t
    let m := Handle.lo v + t.toNat
    let shared := if m % 65536 = 0 then [] else [Handle.region v + m / 65536]
    trapSaturated asid (s.hart.getH o.d.toNat) o.a.toNat shared
    dropHandle o.d.toNat
    modify fun s => s.bumpAll asid true shared
    modHart fun h => (h.setH o.d.toNat (mkHandle m (Handle.hi v) (Handle.region v) (Handle.writable v))).setH o.a.toNat
      (mkHandle (Handle.lo v) m (Handle.region v) (Handle.writable v))) s

def execVdrop (o : GOp) (s : State) : Host.Outcome State Fault Refusal :=
  regionOp (.vdrop o) (dropHandle o.a.toNat) s

/-- VINFO (R335). -/
def execVinfo (o : GOp) (s : State) : Host.Outcome State Fault Refusal :=
  finishNext (.vinfo o) (do
    let s ← get
    let v := s.hart.getH o.a.toNat
    setX o.d (if !Handle.live v then 0
      else match o.imm.toNat % 4 with
        | 0 => word (Handle.lo v)
        | 1 => word (Handle.hi v)
        | 2 => word (v.toNat % 2 ^ 48)
        | _ => s.viewAddr s.hart.accessAsid v 0)) s

/-! The export table of a context (R336). -/

def freshSlot : ExportSlot := { generation := 1, view := none }

def State.exportSlots (s : State) (asid : Asid) : List ExportSlot := ((s.exports.find? (·.1 == asid)).map (·.2)).getD []

/-- Write slot `k`; the table is as long as the slots that have been used. -/
def State.setExport (s : State) (asid : Asid) (k : Nat) (e : ExportSlot) : State :=
  let l := s.exportSlots asid
  let l := (l ++ List.replicate (k + 1 - l.length) freshSlot).set k e
  { s with exports := (asid, l) :: s.exports.filter (·.1 != asid) }

/-- Firmware destroys or creates a context: its exported views end, and its slots start again at generation 1 (R336). -/
def State.resetExports (s : State) (asid : Asid) : State :=
  let s := ((s.exportSlots asid).filterMap (·.view)).foldl (fun s v => s.bumpAll asid false (Handle.granules v)) s
  { s with exports := s.exports.filter (·.1 != asid) }

def execVexport (o : GOp) (s : State) : Host.Outcome State Fault Refusal :=
  regionOp (.vexport o) (do
    let s ← get
    let asid := s.hart.accessAsid
    let v := s.hart.getH o.a.toNat
    let slots := s.exportSlots asid
    let free := (List.range 4096).find? fun k => let e := slots.getD k freshSlot; e.view.isNone && !e.retired
    match Handle.live v, free with
    | true, some k => do
      let e := slots.getD k freshSlot
      modify fun s => s.setExport asid k { e with view := some v }
      modHart (·.setH o.a.toNat 0)
      setX o.d (word (e.generation * 4096 + k))
    | _, _ => setX o.d 0) s

def execVimport (o : GOp) (s : State) : Host.Outcome State Fault Refusal :=
  regionOp (.vimport o) (do
    auReads [o.a]
    let s ← get
    let asid := s.hart.accessAsid
    let token := s.x o.a
    if token = 0 then dropHandle o.d.toNat
    else
      let k := token.toNat % 4096
      let e := (s.exportSlots asid).getD k freshSlot
      match e.view with
      | none => trap .viewBound 0 token
      | some v => do
        trapIf (token.toNat != e.generation * 4096 + k) .viewBound 0 token
        dropHandle o.d.toNat
        let last := e.generation == 0xFFFFF
        modify fun s => s.setExport asid k
          { generation := if last then e.generation else e.generation + 1, view := none, retired := last }
        modHart (·.setH o.d.toNat v)) s

end Sys2Proof.Machine
end

