-- ==== Sys2Proof/Machine/Streams.lean ====
section
/-!
DEFINITION. Pattern registers and stream registers, OPC 0xB2 and 0xB4 (15:R275 to R281; 19:R337).
-/

namespace Sys2Proof.Machine

/-- APLD and APST are scalar accesses of 64 bytes (R275). -/
def execApld (o : GOp) (s : State) : Host.Outcome State Fault Refusal :=
  finishNext (.apld o) (do
    auReads [o.a]
    let v ← loadAt (.plain ((← get).x o.a)) o.imm.toInt 64
    modHart (·.setAP o.d.toNat (BitVec.ofNat 512 v))) s

def execApst (o : GOp) (s : State) : Host.Outcome State Fault Refusal :=
  finishNext (.apst o) (do
    auReads [o.a]
    let s ← get
    storeAt (.plain (s.x o.a)) o.imm.toInt 64 (s.hart.getAP o.c.toNat).toNat) s

/-- A record with one field replaced (R273, R275). -/
def apSet (p : APReg) (sel : Nat) (a : Word) : APReg :=
  BitVec.ofNat 512 (
    if sel ≤ 5 then putBits p.toNat (32 + 32 * sel) 32 a.toNat
    else if 8 ≤ sel ∧ sel ≤ 13 then putBits p.toNat (224 + 48 * (sel - 8)) 48 a.toNat
    else putBits p.toNat 0 32 a.toNat)

def execApset (o : GOp) (s : State) : Host.Outcome State Fault Refusal :=
  finishNext (.apset o) (do
    auReads [o.a]
    let a := (← get).x o.a
    modHart fun h => h.setAP o.d.toNat (apSet (h.getAP o.d.toNat) (o.imm.toNat % 16) a)) s

/-- The held failures of a stream that is discarded are latent events (R369). -/
def State.logHeld (s : State) (st : Stream) : State :=
  let q := s.hart.streamReq
  st.buf.foldl (fun s h => match h with
    | .value _ => s
    | .failure f =>
      let pa := match s.locate q f.addr with
        | .ok (.at_ t) => s.readAddr q t
        | _ => 0
      s.logLatent 3 (pa - pa % 128) q.asid q.place) s

/-- Leave stream mode: the buffer is dropped, the stream's private view is dropped, and the register holds zero (R281,
R337). -/
def State.streamOff (s : State) (r : Nat) : State :=
  match s.hart.stream r with
  | none => s
  | some st =>
    let s := s.logHeld st
    let s := st.view.elim s fun v => if Handle.live v then s.bumpAll s.hart.asid false (Handle.granules v) else s
    { s with hart := { s.hart.setStream r none with own := s.hart.own.setReg r 0 } }

/-- SON (R277). The checks, of R337 too, come before an old stream's fork is dropped. -/
def execSon (o : GOp) (s : State) : Host.Outcome State Fault Refusal :=
  finishNext (.son o) (do
    let h := (← get).hart
    let byHandle := o.fl.getLsbD 0
    auReads (o.c :: if byHandle then [] else [o.b])
    let p := h.getAP o.a.toNat
    trapIf (!(APReg.wellFormed p) || (APReg.indexed p && o.c == 0) || (!APReg.indexed p && o.c != 0)) .streamMisuse 0 1
    let asid := h.asid
    let v := h.getH o.b.toNat
    let r := o.d.toNat
    let s ← get
    if byHandle then
      trapIf (!Handle.live v) .viewBound 0 (word o.b.toNat)
      trapSaturated asid 0 o.b.toNat (Handle.granules v)
    else pure ()
    let base := s.x o.b
    let list := s.x o.c
    modify fun s => s.streamOff r
    if byHandle then modify fun s => s.bumpAll asid true (Handle.granules v) else pure ()
    releaseOp 4
    modHart (·.setStream r (some { pattern := p, base, list, number := o.b.toNat, view := if byHandle then some (v &&& ~~~(2#128)) else none }))) s

def execSoff (o : GOp) (s : State) : Host.Outcome State Fault Refusal :=
  finishNext (.soff o) (modify (·.streamOff o.a.toNat)) s

/-- The status word of a stream (R281): FAULT reports a failure that stands in the buffer. -/
def Stream.status (st : Stream) : Word :=
  let fault := st.buf.any fun h => match h with | .failure _ => true | _ => false
  word (st.pos % 2 ^ 48 * 2 ^ 16 + (if fault then 4 else 0) + (if st.pos == APReg.total st.pattern then 2 else 0) + 1)

def execSstat (o : GOp) (s : State) : Host.Outcome State Fault Refusal :=
  finishNext (.sstat o) (modHart fun h => h.setX o.d ((h.stream o.a.toNat).elim 0 (·.status))) s

end Sys2Proof.Machine
end

