-- ==== Sys2Proof/Machine/Strip.lean ====
section
/-!
DEFINITION. Strips, the SETVL family and the deal of lane groups (05:R86, R89, R90, R96, R97; 07:R126).
-/

namespace Sys2Proof.Machine

/-- What R86 accepts as a VTY. -/
def vtyOk (t : Word) : Bool :=
  t.toNat < 512 && isDefined (bitsAt t.toNat 0 5) && (!t.getLsbD 7 || isFp8 (bitsAt t.toNat 0 5))

/-- Lane groups that a hart asks for (R96). -/
def Hart.demand (h : Hart) : Nat :=
  if h.run == .idle then 0 else min 16 (ceilDiv (h.cfg.vl * h.cfg.w) 128)

def State.demandAt (s : State) (die core slot : Nat) : Nat :=
  match s.harts.find? fun h => h.place == { die, core, slot } with
  | some h => h.demand
  | none => 0

/-- The turns of a deal from slot `t` on: one group to each slot that still wants one (R97). -/
def dealFrom (demand : Vector Nat 4) : Nat → Nat → Nat → Vector Nat 4 → Option Nat → Vector Nat 4 × Option Nat
  | 0, _, _, alloc, first => (alloc, first)
  | fuel + 1, t, dealt, alloc, first =>
    if dealt < 16 ∧ alloc.getD t 0 < demand.getD t 0 then
      dealFrom demand fuel ((t + 1) % 4) (dealt + 1) (alloc.setIfInBounds t (alloc.getD t 0 + 1))
        (if first.isNone then some t else first)
    else dealFrom demand fuel ((t + 1) % 4) dealt alloc first

/-- A deal on a core (R97). Under DET the hart holds all 16 groups whatever its demand (R100). -/
def State.deal (s : State) (die core : Nat) : State :=
  let key := coreKey die core
  let old := s.lanes.get {} key
  let new : Lanes :=
    match s.harts.find? fun h => h.place.die == die && h.place.core == core && h.run == .running && h.det with
    | some h => { alloc := (Vector.replicate 4 0).setIfInBounds h.place.slot 16, first := old.first }
    | none =>
      let demand := Vector.ofFn fun (k : Fin 4) => s.demandAt die core k.val
      let (alloc, first) := dealFrom demand 68 ((old.first + 1) % 4) 0 (Vector.replicate 4 0) none
      { alloc, first := first.getD old.first }
  { s with lanes := s.lanes.set {} key new }

/-- Wait until the watermark word reaches a value; the read acquires at package scope (R89, R90). -/
def waitWatermark (need : Word) : Op Unit := do
  match (← get).hart.task.wmaddr with
  | none => pure ()
  | some a => do
    let v ← loadAt (.plain a) 0 8
    if word v < need then wait else acquireOp 4

/-- MMREV of a node record (R190). -/
def NodeRec.mmrev (r : NodeRec) : Nat := bitsAt r.ctrl.toNat 38 2

/-- The fence-strengthening mode for the running hart's context on its die: a task of revision 1 has been placed there, and has neither
ended nor been killed; a pre-empted one has not ended (R269, R374). -/
def State.strengthened (s : State) : Bool :=
  (s.harts.any fun h => h.run == .running && h.place.die == s.hart.place.die && h.asid == s.hart.asid && h.task.mmrev == 1) ||
  s.graphs.any fun g => g.asid == s.hart.asid && g.nodes.any fun n => n.record.mmrev == 1 && n.saved.any (·.die == s.hart.place.die)

/-- The accesses of the closing strip perform before those of the new one: at core scope (R89, R91), or in the fence-strengthening mode
at die scope with the engine commands, as `fence.die rwe, rwe` (R268, R269). -/
def closeAccesses : Op Unit := do
  let s ← get
  if !s.strengthened then releaseOp 1
  else if s.commandPending s.hart.place then wait
  else releaseOp 3

/-- The strip close of R89: the granted length. -/
def stripClose (requested vty : Word) : Op Word := do
  let c := (← get).hart.csr
  let vl := word (min requested.toNat (cfgOf 0 vty).vlmax)
  let nb := c.wmbase + c.vl
  waitWatermark (nb + vl)
  closeAccesses
  modCsr fun c => { c with
    wmbase := nb
    srbase := c.srbase + c.vl
    stripn := c.stripn + 1
    vl := vl
    vty := vty }
  modify fun s => s.deal s.hart.place.die s.hart.place.core
  pure vl

/-- A member of the SETVL family (R126). -/
def setvlOp (i : Instr) (d : Reg) (srcs : List Reg) (requested vty : Hart → Word) (s : State) :
    Host.Outcome State Fault Refusal :=
  finishNext i (do
    auReads srcs
    let h := (← get).hart
    illegalIf !(vtyOk (vty h))
    let vl ← stripClose (requested h) (vty h)
    setX d vl) s

def execSetvl (o : GOp) (s : State) :=
  setvlOp (.setvl o) o.d [o.a] (fun h => h.getX o.a) (fun _ => o.imm.setWidth 64) s
def execSetvli (o : GOp) (s : State) :=
  setvlOp (.setvli o) o.d [] (fun _ => o.x.setWidth 64) (fun _ => o.imm.setWidth 64) s
def execSetvty (o : GOp) (s : State) :=
  setvlOp (.setvty o) o.d [o.a, o.b] (fun h => h.getX o.a) (fun h => h.getX o.b) s

end Sys2Proof.Machine
end

