-- ==== Sys2Proof/Machine/Graphs.lean ====
section
/-!
DEFINITION. Task graphs: records, validation, the dispatcher's writes, failures and kills, releases, completions and the
choice of a place (10:R189 to R199, R410).
-/

namespace Sys2Proof.Machine

/-! Reading without faulting (R191). -/

/-- An agent outside the package: it sees what has performed at package scope, and no TLB holds copies for it. -/
def outside : Place := { die := 4 }

/-- A die's dispatcher as an agent. -/
def dispatcherPlace (die : Nat) : Place := dieUnit die

/-- The request of a dispatcher in a context. -/
def dispatcherReq (die : Nat) (asid : Asid) : Req := { place := dispatcherPlace die, asid }

/-- The place of a byte that a device agent may read in a context, on a page; none elsewhere. -/
def State.agentTarget (s : State) (q : Req) (va : Word) : Option Target :=
  match s.locate q va with
  | .ok (.at_ (.page x)) => some (.page x)
  | _ => none

/-- `n` bytes from an address on, if each is resident and readable. -/
def State.agentRead (s : State) (die : Nat) (asid : Asid) (va : Word) : Nat → Option Nat
  | 0 => some 0
  | n + 1 => do
    let q := dispatcherReq die asid
    let t ← s.agentTarget q va
    let rest ← s.agentRead die asid (va + 1) n
    return s.readAt q t 1 + 256 * rest

/-- The offset of the first poisoned doubleword of a range. -/
def State.agentPoison (s : State) (die : Nat) (asid : Asid) (va : Word) (n : Nat) : Option Nat :=
  let q := dispatcherReq die asid
  ((List.range n).find? fun k => (s.agentTarget q (va + word k)).elim false fun t => s.poisonAt q t 1).map fun k => k / 8 * 8

/-- An agent's reads of a range set A on its pages (R229). -/
def State.agentTouch (s : State) (die : Nat) (asid : Asid) (va : Word) (n : Nat) : State :=
  let q := dispatcherReq die asid
  (pagesOf va n).foldl (fun s a => (s.agentTarget q a).elim s (s.touch q)) s

/-! Records. -/

def NodeRec.flag (r : NodeRec) (k : Nat) : Bool := r.ctrl.getLsbD k
def NodeRec.det (r : NodeRec) : Bool := r.flag 32
def NodeRec.pair (r : NodeRec) : Bool := r.flag 33
def NodeRec.gang (r : NodeRec) : Bool := r.flag 34
def NodeRec.restartable (r : NodeRec) : Bool := r.flag 35
def NodeRec.prio (r : NodeRec) : Nat := bitsAt r.ctrl.toNat 36 2
def NodeRec.gsize (r : NodeRec) : Nat := bitsAt r.ctrl.toNat 40 8
def NodeRec.accs (r : NodeRec) : Nat := bitsAt r.ctrl.toNat 48 4
def NodeRec.budget (r : NodeRec) : Nat := bitsAt r.ctrl.toNat 52 2
def NodeRec.vregs (r : NodeRec) : Nat := bitsAt r.ctrl.toNat 56 7
def NodeRec.dieAllowed (r : NodeRec) (d : Nat) : Bool := r.aff.getLsbD (40 + d)
def NodeRec.coreAllowed (r : NodeRec) (c : Nat) : Bool := c < 40 && r.aff.getLsbD c
def NodeRec.cores (r : NodeRec) : Nat := popCount 40 r.aff.toNat

/-- Tiles that are placed at once. -/
def NodeRec.unit (r : NodeRec) : Nat := if r.gang then r.gsize else 1

/-- A validation failure: its code, the node, the failing field and the record that holds it. -/
structure BadGraph where
  code : Nat
  node : Nat
  field : Word
  record : Word
  deriving DecidableEq, Repr

/-- Bits [63:56] of an address are zero and it is a multiple of `n`. -/
def addressOk (a : Word) (n : Nat) : Bool := a.toNat < 2 ^ 56 && a.toNat % n == 0

/-- The node number of a failure of the header (R192). -/
def headerNode : Nat := 0xFFFFFFFF

/-- The header's checks, in ascending code: NNODES and the fields, or the first failure (R191). -/
def State.headerFault (s : State) (die : Nat) (asid : Asid) (h : Word) : Option BadGraph :=
  let bad (code off : Nat) : Option BadGraph := some { code, node := headerNode, field := h + word off, record := h }
  if !addressOk h 64 then bad 1 0
  else
    match s.agentRead die asid h 64 with
    | none => bad 2 0
    | some v =>
      if !addressOk (word (bitsAt v 0 64)) 128 then bad 1 0
      else if !addressOk (word (bitsAt v 128 64)) 64 then bad 1 0x10
      else if !addressOk (word (bitsAt v 192 64)) 8 then bad 1 0x18
      else if bitsAt v 96 32 != 0 then bad 3 0x08
      else if bitsAt v 256 256 != 0 then bad 3 0x20
      else if 65535 < bitsAt v 64 32 then bad 7 0x08
      else (s.agentPoison die asid h 64).bind (bad 0x0B)

/-- A node record as its 128 bytes; `preds` is its predecessor list. -/
def nodeRec (v : Nat) (preds : List Nat) : NodeRec :=
  let wm := bitsAt v (0x18 * 8 + 32) 32
  { entry := word (bitsAt v 0 64), argp := word (bitsAt v 64 64), ctrl := word (bitsAt v 128 64)
    wmnode := if wm = 0xFFFFFFFF then none else some wm
    preds, wmaddr := word (bitsAt v (0x28 * 8) 64), donep := word (bitsAt v (0x30 * 8) 64)
    aff := word (bitsAt v (0x38 * 8) 64), savep := word (bitsAt v (0x40 * 8) 64) }

/-- The little-endian 32-bit words of a list. -/
def words32 (n v : Nat) : List Nat := (List.range n).map fun k => bitsAt v (32 * k) 32

/-- A node's record, or the first of its checks that fails, in ascending code (R191). -/
def State.nodeFault (s : State) (die : Nat) (asid : Asid) (nodep : Word) (j : Nat) : Except BadGraph NodeRec :=
  let at_ := nodep + word (128 * j)
  let bad (code off : Nat) : Except BadGraph NodeRec := .error { code, node := j, field := at_ + word off, record := at_ }
  if !addressOk at_ 128 then bad 1 0
  else
    match s.agentRead die asid at_ 128 with
    | none => bad 2 0
    | some v =>
      let r := nodeRec v []
      let npred := bitsAt v (0x18 * 8) 16
      let predp := word (bitsAt v (0x20 * 8) 64)
      if npred != 0 && !addressOk predp 4 then bad 1 0x20
      else if r.wmnode.isSome && !addressOk r.wmaddr 8 then bad 1 0x28
      else if !addressOk r.donep 8 then bad 1 0x30
      else if !addressOk r.savep 128 then bad 1 0x40
      else
        match s.agentRead die asid predp (4 * npred) with
        | none => bad 2 0x20
        | some list =>
          let preds := words32 npred list
          if r.flag 63 || bitsAt r.ctrl.toNat 54 2 != 0 then bad 3 0x10
          else if bitsAt v (0x18 * 8 + 16) 16 != 0 then bad 3 0x18
          else if 2 ^ 44 ≤ r.aff.toNat then bad 3 0x38
          else if bitsAt v (0x48 * 8) 448 != 0 then bad 3 0x48
          else if 16777216 ≤ r.tiles then bad 4 0x10
          else if r.mmrev = 0 || r.mmrev == 3 then bad 5 0x10
          else if preds.any fun p => decide (j ≤ p) then bad 6 0x20
          else if r.wmnode.elim false fun p => decide (j ≤ p) then bad 6 0x18
          else if 8 < r.accs || 64 < r.vregs || (if r.gang then r.gsize < 2 || 160 < r.gsize || r.tiles % r.gsize != 0 else r.gsize != 0)
          then bad 7 0x10
          else if r.pair && r.gang then bad 8 0x10
          else if bitsAt r.aff.toNat 40 4 = 0 || bitsAt r.aff.toNat 0 40 = 0 ||
            (r.pair && !((List.range 20).any fun k => r.coreAllowed (2 * k) && r.coreAllowed (2 * k + 1))) ||
            (r.gang && decide (4 * r.cores < r.gsize)) then bad 9 0x38
          else if !isPc r.entry then bad 0x0A 0
          else
            match s.agentPoison die asid at_ 128, s.agentPoison die asid predp (4 * npred) with
            | some off, _ => bad 0x0B off
            | none, some _ => bad 0x0B 0x20
            | none, none => .ok { r with preds }

/-- The records of nodes `j` to `j + n - 1`. -/
def State.nodeFaults (s : State) (die : Nat) (asid : Asid) (nodep : Word) : Nat → Nat → Except BadGraph (List NodeRec)
  | _, 0 => .ok []
  | j, n + 1 =>
    match s.nodeFault die asid nodep j with
    | .error e => .error e
    | .ok r =>
      match s.nodeFaults die asid nodep (j + 1) n with
      | .error e => .error e
      | .ok l => .ok (r :: l)

/-! The dispatcher's writes (R410). -/

def State.graph? (s : State) (g : Nat) : Option Graph := s.graphs.find? (·.id == g)

def State.mapGraph (s : State) (g : Nat) (f : Graph → Graph) : State :=
  { s with graphs := s.graphs.map fun x => if x.id == g then f x else x }

def State.mapNode (s : State) (g n : Nat) (f : Node → Node) : State :=
  s.mapGraph g fun x => { x with nodes := x.nodes.modify n f }

/-- Bytes of a write and the value that it leaves over the old one (R195). -/
def DispOp.size : DispOp → Nat
  | .bytes _ n => n
  | _ => 8

def DispOp.apply (op : DispOp) (old : Nat) : Nat :=
  match op with
  | .bytes v _ => v
  | .ended f => (Nat.lor old f.toNat + 2 ^ 32) % 2 ^ 64
  | .done => Nat.lor old (2 ^ 31)
  | .fail => Nat.lor old (2 ^ 31 + 2 ^ 30)

/-- The request of a write, to a page of ordinary or hashed-grid class. -/
def DispWrite.req (w : DispWrite) : Req := { place := dispatcherPlace w.die, asid := w.asid, write := true, only := [0, 2] }

/-- What becomes of a write. -/
inductive DispResult where
  | performed
  | waits (bad : Bool)
  | skipped
  deriving DecidableEq, Repr

/-- Try a write: it performs at every agent, in whole doublewords (R410). A refusal that a walk has confirmed leaves no TLB copy of the
page (R230). A walk that meets poison makes the write one that cannot be made (DESIGN CHOICE, notes/assumptions/106.md). -/
def State.tryDispatch (s : State) (w : DispWrite) : State × DispResult :=
  let q := w.req
  let n := w.op.size
  match s.locate q w.address with
  | .ok (.absent bad) => (s, .waits bad)
  | .ok (.at_ (.page x)) =>
    let s := s.atHome q (.page x) n
    (s.putBytes x.pa (toBytes n (w.op.apply (s.memNat x.pa n))), .performed)
  | .error t => (if t.cause = .protection then s.dropCopies q.place q.asid w.address else s, .skipped)
  | _ => (s, .skipped)

/-- The requester fields of a dispatcher's record (R363). -/
def DispWrite.requester (w : DispWrite) : Requester :=
  { src := 5, epc := 0, die := w.die, core := 0xFF, slot := 3, taskid := 0, node := w.node }

/-- The error record of a graph (R192). -/
def errorRecord (code node ecode : Nat) (taskid epc eaddr : Word) : Nat :=
  node % 2 ^ 32 * 2 ^ 16 + ecode % 256 * 2 ^ 8 + code % 256 + 2 ^ 64 * taskid.toNat + 2 ^ 128 * epc.toNat + 2 ^ 192 * eaddr.toNat

/-- The place of a write among those that end a graph: the error record, the completion words, GDONEP (R191, R196). -/
def DispOp.rank (op : DispOp) : Nat :=
  match op with
  | .bytes _ n => if n = 64 then 0 else 2
  | _ => 1

/-- A write comes after one that waits: both write a byte, or that one comes earlier in the end of their graph. -/
def DispWrite.behind (w u : DispWrite) : Bool :=
  (u.asid == w.asid && decide (u.address.toNat < w.address.toNat + w.op.size) && decide (w.address.toNat < u.address.toNat + u.op.size)) ||
    (w.ending && u.ending && u.graph == w.graph && decide (u.op.rank < w.op.rank))

/-- The fault record of a write whose page is missing, once the queue has room (R362, R410). -/
def State.tell (s : State) (w : DispWrite) (bad : Bool) : State × DispWrite :=
  if s.queueTakes w.die 1 then (s.pushRecord w.die w.requester w.req w.address bad 1, { w with told := true }) else (s, w)

/-- Try a write, and queue it when its page is missing or it comes behind a waiting one (R410). A write that cannot be made is dropped
here; the answer says so. -/
def State.dispatchOrQueue (s : State) (w : DispWrite) : State × DispResult :=
  if s.dispWrites.any w.behind then ({ s with dispWrites := s.dispWrites ++ [w] }, .waits false)
  else
    match s.tryDispatch w with
    | (s, .waits bad) =>
      let (s, w) := s.tell w bad
      ({ s with dispWrites := s.dispWrites ++ [w] }, .waits bad)
    | r => r

/-- A write after whose skipping nothing follows. -/
def State.dispatchPlain (s : State) (w : DispWrite) : State := (s.dispatchOrQueue w).1

/-! Kills (R196). -/

/-- Drop every live handle and switch off every stream of the running hart's task, in the task's context (R200). -/
def State.dropViews (s : State) : State :=
  let s := { s with hart := { s.hart with firmware := false } }
  let s := (List.range 16).foldl (fun s k => s.streamOff (48 + k)) s
  (List.range 16).foldl (fun s k =>
    let s := s.dropView s.hart.place s.hart.accessAsid k (s.hart.getH k)
    { s with hart := s.hart.setH k 0 }) s

/-- Unmap every accumulator name and retire its tiles (R165). -/
def Hart.retireAll (h : Hart) : Hart := (List.range 8).foldl (fun h n => h.retire n) h

/-- Free the running hart's slot, which keeps its counters (R272). A kill makes no deal of the core's lane groups: R97 names none. -/
def State.freeSlot (s : State) : State :=
  { s with
    slotCounters := s.slotCounters.set {} (Place.key s.hart.place) s.hart.counters
    hart := { s.hart.retireAll with run := .idle, waiting := none, deadline := none, launched := none } }

/-- Free the running hart's slot, and deal the core's lane groups (R97, R200). -/
def State.leaveSlot (s : State) : State :=
  let p := s.hart.place
  let s := s.freeSlot.deal p.die p.core
  if s.hart.pair then s.deal p.die (p.core + 1) else s

/-- The running hart is killed: what it has not performed is discarded, and it leaves as END would, without flags (R196). What its die's
agents have seen is not undone: it performs for every agent, before its node completes or its graph ends (R195, R265; DEDUCED,
notes/assumptions/120.md). A kill for a rerun discards its sub-bins (R380). -/
def State.killRunning (s : State) (rerun : Bool) : State :=
  let h := s.hart
  let s := if h.faulting.isSome then s.setDie h.place.die { s.die h.place.die with writer := none } else s
  let s := { s with
    hart := { h with faulting := none }
    pend := s.pend.filter fun p => !(p.held && p.place == h.place)
    cmds := s.cmds.filter fun c => c.place != h.place }
  let s := s.performPending fun p => p.place == h.place
  let s := s.dropViews
  let s := s.leaveBarriers h
  let s := if rerun then s.discardBins h else s.sealBins h
  let s := match h.task.ref with
    | some r =>
      s.mapNode r.graph r.node fun n =>
        if rerun then { n with again := n.again ++ [r.tile] } else { n with killed := n.killed + 1 }
    | none => s
  s.freeSlot

/-- Kill the hart at a place, which need not be the running one. -/
def State.killAt (s : State) (p : Place) (rerun : Bool) : State :=
  if s.hart.place = p then s.killRunning rerun
  else
    let home := s.hart.place
    let s := (s.turnTo p).killRunning rerun
    s.turnTo home

/-- The places of the running tasks of a graph. -/
def State.placesOf (s : State) (g : Nat) : List Place :=
  (s.harts.filter fun h => h.run == .running && h.task.ref.elim false fun r => r.graph == g).map (·.place)

/-- A graph aborts (R196): kills, the error record, FAIL and DONE, GDONEP. A skipped word of the abort aborts nothing more. A tile that a
pre-emption has set aside does not run, and keeps its barriers, its views and its sub-bin (DESIGN CHOICE, notes/assumptions/107.md). -/
def State.abortGraph (s : State) (die : Nat) (g : Nat) (code node ecode : Nat) (taskid epc eaddr : Word) : State :=
  match s.graph? g with
  | none => s
  | some gr =>
    if gr.aborted || gr.complete then s
    else
      let s := s.mapGraph g fun x => { x with aborted := true }
      let s := (s.placesOf g).foldl (fun s p => s.killAt p false) s
      let write (n : Nat) (address : Word) (op : DispOp) : DispWrite :=
        { die, asid := gr.asid, graph := g, node := n, address, op, completion := false, ending := true }
      let s := if gr.errp = 0 then s
        else s.dispatchPlain (write node gr.errp (.bytes (errorRecord code node ecode taskid epc eaddr) 64))
      let s := gr.nodes.zipIdx.foldl (fun s p =>
        if p.1.released && !p.1.complete then s.dispatchPlain (write p.2 p.1.record.donep .fail) else s) s
      if gr.gdonep = 0 then s else s.dispatchPlain (write node gr.gdonep (.bytes 3 8))

/-- A completion or watermark word: a skipped one aborts the graph with code 0x43 (R410). -/
def State.dispatchWord (s : State) (w : DispWrite) : State × DispResult :=
  match s.dispatchOrQueue w with
  | (s, .skipped) => (s.abortGraph w.die w.graph 0x43 w.node 0 0 0 w.address, .skipped)
  | r => r

/-- Every node of the graph has completed: GDONEP receives 1 (R195). A fault record for this word names node 0 (DESIGN CHOICE,
notes/assumptions/118.md). -/
def State.finishGraph (s : State) (die g : Nat) : State :=
  match s.graph? g with
  | none => s
  | some gr =>
    if gr.aborted || gr.complete || gr.nodes.any (!·.complete) then s
    else
      let s := s.mapGraph g fun x => { x with complete := true }
      if gr.gdonep = 0 then s
      else s.dispatchPlain { die, asid := gr.asid, graph := g, node := 0, address := gr.gdonep, op := .bytes 1 8, completion := false }

/-- All ones into a node's watermark word (R195). -/
def State.raiseWatermark (s : State) (die : Nat) (gr : Graph) (n : Nat) (r : NodeRec) : State :=
  (s.dispatchWord { die, asid := gr.asid, graph := gr.id, node := n, address := r.wmaddr, op := .bytes (2 ^ 64 - 1) 8,
                    completion := true }).1

/-- What follows when a node's DONE has been written: the watermarks of its released dependants, the graph's completion. -/
def State.afterDone (s : State) (die g n : Nat) : State :=
  let s := s.mapNode g n fun x => { x with complete := true }
  match s.graph? g with
  | none => s
  | some gr =>
    let s := gr.nodes.zipIdx.foldl (fun s p =>
      if p.1.released && p.1.record.wmnode == some n then s.raiseWatermark die gr p.2 p.1.record else s) s
    s.finishGraph die g

/-- A waiting write is tried again, once nothing that it comes behind waits; one that firmware has been told of may be given up
(R410). -/
def State.resumeDispatch (s : State) (k : Nat) (mappable : Bool) : State :=
  match s.dispWrites[k]? with
  | none => s
  | some w =>
    let rest := { s with dispWrites := s.dispWrites.eraseIdx k }
    let skip (s : State) : State := if w.completion then s.abortGraph w.die w.graph 0x43 w.node 0 0 0 w.address else s
    if (s.dispWrites.take k).any w.behind then s
    else if !mappable then (if w.told then skip rest else s)
    else
      match rest.tryDispatch w with
      | (s, .performed) => if w.op = .done then s.afterDone w.die w.graph w.node else s
      | (_, .waits bad) =>
        if w.told then s
        else
          let (s, w) := s.tell w bad
          { s with dispWrites := s.dispWrites.set k w }
      | (s, .skipped) => skip s

/-- A write for the node is waiting. -/
def State.nodeBusy (s : State) (g n : Nat) : Bool := s.dispWrites.any fun w => w.graph == g && w.node == n

/-- The node's DONE is waiting. -/
def State.doneWaits (s : State) (g n : Nat) : Bool := s.dispWrites.any fun w => w.graph == g && w.node == n && w.op == .done

/-! Submission and validation (R191, R193, R194). -/

/-- The pages that validation reads: the header's, and those of the records up to the failing one with their lists (R229). -/
def State.touchGraph (s : State) (die : Nat) (asid : Asid) (header nodep : Word) (nnodes : Nat) : State :=
  (List.range nnodes).foldl (fun s j =>
    let at_ := nodep + word (128 * j)
    match s.agentRead die asid at_ 128 with
    | none => s
    | some v => (s.agentTouch die asid at_ 128).agentTouch die asid (word (bitsAt v (0x20 * 8) 64)) (4 * bitsAt v (0x18 * 8) 16))
    (s.agentTouch die asid header 64)

/-- Validate a submitted graph: the state afterwards and the failure, if any. Of a header that is misaligned ERRP and GDONEP are not used
(DESIGN CHOICE, notes/assumptions/117.md). -/
def State.validateGraph (s : State) (die : Nat) (asid : Asid) (header : Word) : State × Option BadGraph :=
  let v := (s.agentRead die asid header 64).getD 0
  let nodep := word (bitsAt v 0 64)
  let nnodes := bitsAt v 64 32
  let errp := word (bitsAt v 128 64)
  let gdonep := word (bitsAt v 192 64)
  let readable := addressOk header 64 && (s.agentRead die asid header 64).isSome
  let result : Except BadGraph (List NodeRec) :=
    match s.headerFault die asid header with
    | some b => .error b
    | none => s.nodeFaults die asid nodep 0 nnodes
  let id := s.nextGraph
  let s := { s with nextGraph := id + 1 }
  let s := if !readable then s else s.touchGraph die asid header nodep (match result with
    | .error b => if b.node = headerNode then 0 else b.node + 1
    | .ok l => l.length)
  match result with
  | .error b =>
    let write (address : Word) (op : DispOp) : DispWrite :=
      { die, asid, graph := id, node := b.node, address, op, completion := false, ending := true }
    let s := if readable && errp != 0 && addressOk errp 64 then
        s.dispatchPlain (write errp (.bytes (errorRecord b.code b.node 0 0 0 b.field) 64)) else s
    let s := if readable && gdonep != 0 && addressOk gdonep 8 then s.dispatchPlain (write gdonep (.bytes 3 8)) else s
    (s, some b)
  | .ok records =>
    let g : Graph := { id, asid, header, errp, gdonep, nodes := records.map fun r => ({ record := r } : Node) }
    let s := { s with graphs := s.graphs ++ [g] }
    (s.finishGraph die id, none)

/-! Places (R198, R199). -/

/-- The running tasks of a core. -/
def State.tasksOn (s : State) (die core : Nat) : List Hart :=
  s.harts.filter fun h => h.run == .running && h.place.die == die &&
    (h.place.core == core || (h.pair && h.place.core + 1 == core))

/-- Tiles that the core's tasks reserve (R165, R199). -/
def reserveOf (accs : Nat) : Nat := if accs = 0 then 0 else accs + 1

def State.reserved (s : State) (die core : Nat) : Nat := ((s.tasksOn die core).map fun h => reserveOf h.task.accs).sum

/-- One tile of a record fits in a slot; `also` are places already taken by its gang (R199). -/
def State.fitsAt (s : State) (r : NodeRec) (also : List Place) (p : Place) : Bool :=
  let tasks := s.tasksOn p.die p.core
  let mine := also.filter fun q => q.die == p.die && q.core == p.core
  let free (core : Nat) := (s.tasksOn p.die core).isEmpty
  p.die < 4 && p.slot < 4 && r.dieAllowed p.die && r.coreAllowed p.core &&
  if r.pair then
    p.core % 2 == 0 && r.coreAllowed (p.core + 1) && p.slot == 0 && free p.core && free (p.core + 1)
  else if r.det then tasks.isEmpty && mine.isEmpty
  else
    (tasks.all fun h => h.place.slot != p.slot && !h.det && !h.pair) && (mine.all fun q => q.slot != p.slot) &&
    s.reserved p.die p.core + (mine.length + 1) * reserveOf r.accs ≤ 12

/-- Every tile of a unit fits at its place, on one die, where `ok` lets it (R199). -/
def State.fitAll (s : State) (r : NodeRec) (ok : Place → Bool) : List Place → List Place → Bool
  | _, [] => true
  | also, p :: rest => ok p && s.fitsAt r also p && s.fitAll r ok (p :: also) rest

/-- The places of a die in the order of R199. -/
def placesOfDie (die : Nat) : List Place :=
  (List.range 40).flatMap fun core => (List.range 4).map fun slot => { die, core, slot }

/-- Tasks on a core, those of `also` with them. -/
def State.load (s : State) (also : List Place) (die core : Nat) : Nat :=
  (s.tasksOn die core).length + also.countP fun q => q.die == die && q.core == core

/-- The place on a die that the dispatcher prefers for the next tile of a unit: the fewest running tasks, then the lowest number (R199). -/
def State.bestPlace (s : State) (r : NodeRec) (ok : Place → Bool) (die : Nat) (also : List Place) : Option Place :=
  ((placesOfDie die).filter fun p => ok p && s.fitsAt r also p).foldl (fun best p =>
    match best with
    | none => some p
    | some b => if s.load also die p.core < s.load also die b.core then some p else best) none

/-- The places that the dispatcher prefers for `n` tiles of a record at once, if they fit on a die. -/
def State.bestPlaces (s : State) (r : NodeRec) (ok : Place → Bool) (die : Nat) : Nat → List Place → Option (List Place)
  | 0, also => some also
  | n + 1, also => (s.bestPlace r ok die also).bind fun p => s.bestPlaces r ok die n (p :: also)

/-! The scratchpad of a tile that has been set aside (R377). -/

/-- The contents of a kept block stand in their place on a core of a context's task. -/
def State.standsAt (s : State) (asid : Asid) (p : Place) (b : KeptBlock) : Bool :=
  let key := blockKey p (4096 * b.block)
  let tag := s.tags.get {} key
  tag.owner == some asid && tag.contents key == b.contents

/-- A kept block can stand on a core: it does already, or no live task there has a block in its place. -/
def State.blockFits (s : State) (asid : Asid) (p : Place) (b : KeptBlock) : Bool :=
  s.standsAt asid p b || !((s.tags.get {} (blockKey p (4096 * b.block))).owner.elim false (s.liveOn p))

/-- The tile of a node that was set aside first can resume at a place with its scratchpad as it left it (DESIGN CHOICE,
notes/assumptions/75.md). -/
def State.resumesAt (s : State) (asid : Asid) (nd : Node) (p : Place) : Bool :=
  nd.saved.head?.elim false fun t => (nd.kept.filter (·.tile == t.tile)).all (s.blockFits asid p)

/-- An entry of a die's queues: a node with tiles left to place (R198). -/
structure QEntry where
  graph : Nat
  asid : Asid
  index : Nat
  node : Node
  deriving DecidableEq, Repr

def Node.left (n : Node) : Bool := n.next < n.record.tiles || !n.again.isEmpty || !n.saved.isEmpty

def State.entries (s : State) (die : Nat) : List QEntry :=
  s.graphs.flatMap fun g =>
    if g.aborted then []
    else (g.nodes.zipIdx.filter fun p => p.1.released && p.1.left && p.1.record.dieAllowed die).map
      fun p => { graph := g.id, asid := g.asid, index := p.2, node := p.1 }

/-- The effective priority of an entry (R198). -/
def QEntry.prio (e : QEntry) (die : Nat) : Nat := e.node.record.prio - e.node.waited.getD die 0

/-- The cores that tiles of a record take at their places: a pair task both of its own (R199). -/
def NodeRec.takes (r : NodeRec) (places : List Place) : List Nat :=
  places.flatMap fun p => if r.pair then [p.core, p.core + 1] else [p.core]

/-- A tile of the record could use a core. -/
def NodeRec.uses (r : NodeRec) (core : Nat) : Bool :=
  r.coreAllowed core && (!r.pair || r.coreAllowed (if core % 2 = 0 then core + 1 else core - 1))

/-- What an entry offers next: how many tiles at once, and where they may be. A tile that was set aside goes by itself (R198, R378). -/
def State.offers (s : State) (e : QEntry) : List (Nat × (Place → Bool)) :=
  let u := e.node.record.unit
  (if e.node.next + u ≤ e.node.record.tiles ∨ u ≤ e.node.again.length then [(u, fun _ => true)] else []) ++
    if e.node.saved.isEmpty then [] else [(1, s.resumesAt e.asid e.node)]

/-- The places on a die of each offer of an entry that fits now. -/
def State.fittingPlaces (s : State) (e : QEntry) (die : Nat) : List (List Place) :=
  (s.offers e).filterMap fun o => s.bestPlaces e.node.record o.2 die o.1 []

/-- An entry that is blocked at priority 0 keeps an entry of a lower priority from these places: it could use their cores (R198). -/
def State.keptFrom (s : State) (e : QEntry) (die : Nat) (places : List Place) : Bool :=
  decide (0 < e.prio die) && (s.entries die).any fun e' =>
    e'.prio die == 0 && (s.fittingPlaces e' die).isEmpty && (e.node.record.takes places).any e'.node.record.uses

/-- The dispatcher of a die comes to one entry before another: by the priority, then by the turn (R198). -/
def QEntry.before (e' e : QEntry) (die : Nat) : Bool :=
  decide (e'.prio die < e.prio die) || (e'.prio die == e.prio die && decide (e'.node.turn.getD die 0 < e.node.turn.getD die 0))

/-- The dispatcher may place this entry now: no entry that it comes to before can be placed, and none keeps it from these cores. -/
def State.mayPlace (s : State) (e : QEntry) (die : Nat) (places : List Place) : Bool :=
  !(s.keptFrom e die places) && (s.entries die).all fun e' =>
    !(e'.before e die) || (s.fittingPlaces e' die).all (s.keptFrom e' die)

/-- Each tile of a unit takes the core that the dispatcher prefers among those where it fits and `ok` lets it: the fewest running tasks, then
the lowest number (R199). -/
def State.preferred (s : State) (r : NodeRec) (ok : Place → Bool) : List Place → List Place → Bool
  | _, [] => true
  | also, p :: rest =>
    (placesOfDie p.die).all (fun p' =>
      !(ok p' && s.fitsAt r also p') || decide (s.load also p.die p.core < s.load also p.die p'.core) ||
        (s.load also p.die p.core == s.load also p.die p'.core && decide (p.core ≤ p'.core))) &&
    s.preferred r ok (p :: also) rest

end Sys2Proof.Machine
end

