-- ==== Sys2Proof/Machine/Image.lean ====
section
/-!
DEFINITION. The images of a pre-empted task: what is saved and what is restored (22:R373 to R378).
-/

namespace Sys2Proof.Machine

/-! Writing. -/

/-- Where the task's compact image goes (R373). -/
def Hart.imageAddr (h : Hart) : Word := h.task.savep + word (1536 * h.csr.taskid.toNat)

/-- CSR j of a compact image, j = 0 to 23 (R373). -/
def Hart.imageCsrs (h : Hart) : List Word :=
  let c := h.csr
  let k := h.counters
  [c.vl, c.vty, c.stripn, c.slip, c.elx, c.wmbase, c.fflags, c.frm, c.srseed, c.srbase, c.dgdrop] ++ c.lidx.toList ++
    [c.tvec, c.budget, c.togest, c.retuse, word (k.decloss.toNat * 2 ^ 32 + k.slipstall.toNat),
     word (k.ldqwait.toNat * 2 ^ 32 + k.strwait.toNat), 0]

/-- Doublewords as bytes. -/
def dwords (l : List Word) : List Byte := l.flatMap fun w => toBytes 8 w.toNat

/-- The compact image of a hart, 1,536 bytes (R373). -/
def Hart.compactImage (h : Hart) (kind : Nat) (fullp cycle : Word) : List Byte :=
  let late := h.lates.head?
  dwords [word kind, fullp, word (h.csr.nodeid.toNat % 2 ^ 32 * 2 ^ 32 + h.csr.taskid.toNat % 2 ^ 32),
      word (h.asid.toNat * 2 ^ 52 + late.elim 0 fun l => l.cause.code), late.elim 0 fun l => l.address,
      late.elim 0 fun l => l.seq.setWidth 64, cycle, 0, h.pc] ++
    dwords (h.x.toList.drop 1) ++ dwords h.imageCsrs ++
    (h.h.toList.flatMap fun v => toBytes 16 v.toNat) ++ (h.bs.toList.flatMap fun b => toBytes 32 b.toNat) ++
    ((List.range 4).flatMap fun k =>
      let b := h.bars.getD k (0, 0)
      dwords [b.1, b.2]) ++
    List.replicate 192 0

/-- A tile's entry in the tile map: MAPPED, GANG, W, position (R376). -/
def tileEntry (t : AcName) (pos : Nat) : Nat :=
  match t with
  | .mapped t => 1 + (if t.gang then 2 else 0) + t.win * 4 + pos * 2 ^ 16
  | _ => 0

/-- The positions of the names' tiles in the tile area. -/
def tilePositions : List AcName → Nat → List Nat
  | [], _ => []
  | t :: rest, pos => pos :: tilePositions rest (pos + AcName.tiles t)

/-- The cells of a tile or a gang as bytes. -/
def tileBytes (far : Bool) (t : AcName) : List Byte :=
  match t with
  | .mapped t => (List.range t.size).flatMap fun k => toBytes 4 ((t.side far).get 0 k).toNat
  | _ => []

/-- A stream's 128 bytes: record, base, list, POS, view, ON (R376). -/
def streamBytes (st : Option Stream) : List Byte :=
  match st with
  | none => List.replicate 128 0
  | some st => toBytes 64 st.pattern.toNat ++ dwords [st.base, st.list, word st.pos] ++ toBytes 16 (st.view.getD 0).toNat ++ dwords [1] ++
      List.replicate 16 0

def VFile.bytes (f : VFile) : List Byte := f.v.toList.flatMap fun r => toBytes 256 r.toNat

/-- The full image (R376); on a pair task the follower's registers and tiles follow. -/
def Hart.fullImage (h : Hart) (fullp cycle : Word) : List Byte :=
  let names := h.ac.toList
  let far := h.far
  h.compactImage 2 fullp cycle ++ h.own.bytes ++ (h.own.e.toList.flatMap fun r => toBytes 32 r.toNat) ++
    ((List.range 7).flatMap fun k => toBytes 1024 (h.getM (k + 1)).toNat) ++ (h.ap.toList.flatMap fun p => toBytes 64 p.toNat) ++
    ((names.zip (tilePositions names 0)).flatMap fun p => toBytes 8 (tileEntry p.1 p.2)) ++
    (h.streams.toList.flatMap streamBytes) ++ (names.flatMap (tileBytes false)) ++
    if h.pair then far.bytes ++ names.flatMap (tileBytes true) else []

/-! Placing bytes in a context. -/

/-- The checks of a write of bytes by the hart, in pieces of 128 bytes: the first that fails, or the targets. -/
def State.checkImage (s : State) (q : Req) (va : Word) (bytes : List Byte) : Except Trap (List (Word × Located)) :=
  (List.range (ceilDiv bytes.length 128)).mapM fun k => do
    let r ← s.checkAccess q (.plain (va + word (128 * k))) 0 128
    return r

/-- Write an image at checked pieces. -/
def writeImage (q : Req) (bytes : List Byte) (l : List (Word × Located)) : Op Unit :=
  l.zipIdx.forM fun p => match p.1.2 with
    | .at_ t => writeTarget q t ((bytes.drop (128 * p.2)).take 128)
    | .absent _ => pure ()

/-- The pieces that are missing. -/
def missingPieces (l : List (Word × Located)) : List Missing :=
  l.filterMap fun p => match p.2 with
    | .absent bad => some { va := p.1, bad }
    | _ => none

/-! The scratchpad (R377). -/

/-- The blocks that a tile's context owns on its core, as firmware keeps them. -/
def State.keepBlocks (s : State) (h : Hart) (tile : Nat) : List KeptBlock :=
  (List.range 80).filterMap fun k =>
    let lo := scratchAddr h.place (4096 * k)
    let tag := s.tags.get {} (blockKey h.place (4096 * k))
    if tag.owner = some h.asid then
      some { tile, block := k, contents := tag.contents (blockKey h.place (4096 * k)), bytes := s.mem.slice lo (lo + 4096)
             poison := s.poison.slice (lo / 8) (lo / 8 + 512) }
    else none

/-- The copies that firmware keeps of contents which it now keeps anew. -/
def Node.renewKept (nd : Node) (l : List KeptBlock) : Node :=
  { nd with kept := nd.kept.map fun b => match l.find? (·.contents == b.contents) with
      | some v => { b with bytes := v.bytes, poison := v.poison }
      | none => b }

/-- The same for every tile that is set aside. -/
def State.renewKept (s : State) (l : List KeptBlock) : State :=
  { s with graphs := s.graphs.map fun g => { g with nodes := g.nodes.map fun nd => nd.renewKept l } }

/-- The core of a block, by the block's number. -/
def placeOfBlock (key : Nat) : Place := { die := key / 80 / 40, core := key / 80 % 40 }

/-- A kept block on the core of a hart that resumes. Where its contents stand they stay, with what other tasks of the context have written
meanwhile. Else firmware moves its copy there: the contents now stand in this place and in no other, but where tasks of the context still
use them, and the copy is then one of its own (R377; notes/assumptions/75.md). -/
def State.restoreBlock (s : State) (h : Hart) (b : KeptBlock) : State :=
  let key := blockKey h.place (4096 * b.block)
  let lo := scratchAddr h.place (4096 * b.block)
  if s.standsAt h.asid h.place b then s
  else
    let other (t : Nat × Tag) : Bool := t.1 != key && t.2.owner == some h.asid && t.2.contents t.1 == b.contents
    let used := s.tags.any fun t => other t && s.liveOn (placeOfBlock t.1) h.asid
    let tags := if used then s.tags
      else s.tags.map fun t => if other t then (t.1, { t.2 with passed := t.2.passed + 1, moved := none }) else t
    { s with
      tags := Store.set {} tags key { owner := some h.asid, passed := (s.tags.get {} key).passed + 1, moved := if used then none else some b.contents }
      mem := (s.mem.eraseRange lo (lo + 4096)).paste 0 lo b.bytes
      poison := (s.poison.eraseRange (lo / 8) (lo / 8 + 512)).paste false (lo / 8) b.poison }

/-- The blocks of a tile that resumes. -/
def State.restoreBlocks (s : State) (h : Hart) (tile : Nat) (l : List KeptBlock) : State :=
  (l.filter (·.tile == tile)).foldl (fun s b => s.restoreBlock h b) s

/-! Reading an image back (R374, R378). -/

/-- Reads a number of an image: its offset and its bytes. -/
abbrev ImageReader := Nat → Nat → Nat

/-- The CSRs of an image, by their numbers, in its order. -/
def imageCsrNumbers : List Nat :=
  [0x001, 0x002, 0x004, 0x005, 0x006, 0x007, 0x008, 0x009, 0x00A, 0x00B, 0x00C, 0x018, 0x019, 0x01A, 0x01B, 0x01C, 0x01D, 0x040, 0x050,
    0x051, 0x030]

/-- Firmware writes the CSRs back; their reserved fields stay zero (R6). -/
def Hart.restoreCsrs (h : Hart) (rd : ImageReader) : Hart :=
  imageCsrNumbers.zipIdx.foldl (fun h p => h.writeCsr p.1 (word (rd (0x240 + 8 * p.2) 8))) h

/-- A handle without its reserved bits (R6, R326). -/
def cleanHandle (v : Nat) : Handle := BitVec.ofNat 128 (putBits v 2 22 0)

/-- The fields of R373 into a hart that has been placed afresh. -/
def Hart.restoreCompact (h : Hart) (rd : ImageReader) : Hart :=
  let late := rd 0x18 1
  let cause := [Cause.illegalInstruction, .illegalBranchTarget, .malformedLine, .lineParity, .misalignedAccess, .atomicAlignment,
    .pageFault, .protection, .viewBound, .widening, .coverageSaturation, .sharedWrite, .fillIn, .shiftRange,
    .determinismViolation, .missedPromise, .barrierOrphaned, .indexBound, .ringMisuse, .streamMisuse, .weightStoreWrite, .ecall,
    .brk, .retiredInstruction, .gridDescriptor, .poisonedData, .protectedEgress, .launchError].find? fun c => c.code == late
  { h.restoreCsrs rd with
    pc := word (rd 0x40 8)
    sequential := false
    x := Vector.ofFn fun (k : Fin 64) => if k.val = 0 then 0 else word (rd (0x40 + 8 * k.val) 8)
    counters := {
      decloss := BitVec.ofNat 32 (rd (0x240 + 8 * 21 + 4) 4), slipstall := BitVec.ofNat 32 (rd (0x240 + 8 * 21) 4)
      ldqwait := BitVec.ofNat 32 (rd (0x240 + 8 * 22 + 4) 4), strwait := BitVec.ofNat 32 (rd (0x240 + 8 * 22) 4) }
    h := Vector.ofFn fun (k : Fin 16) => cleanHandle (rd (0x300 + 16 * k.val) 16)
    bs := Vector.ofFn fun (k : Fin 8) => cleanBand (rd (0x400 + 32 * k.val) 32)
    bars := (List.range 4).filterMap fun k =>
      let a := word (rd (0x500 + 16 * k) 8)
      if a = 0 then none else some (a, word (rd (0x508 + 16 * k) 8))
    lates := match cause with
      | some c => [{ cause := c, address := word (rd 0x20 8), seq := BitVec.ofNat 32 (rd 0x28 4), slot := none, restored := true }]
      | none => [] }

/-- A tile's cells from the tile area. -/
def cellsAt (rd : ImageReader) (base n : Nat) : Store (BitVec 32) :=
  (List.range n).filterMap fun k =>
    let v := BitVec.ofNat 32 (rd (base + 4 * k) 4)
    if v = 0 then none else some (k, v)

/-- The names from a tile map; `area` and `farArea` are the offsets of the tile areas. -/
def namesOfImage (rd : ImageReader) (pair : Bool) (area farArea : Nat) : Vector AcName 8 :=
  let entry (k : Nat) : Nat := rd (0x6C00 + 8 * k) 8
  let gangAt (k : Nat) : Bool := (entry (k / 4 * 4)).testBit 1 && k % 4 != 0
  Vector.ofFn fun (k : Fin 8) =>
    let e := entry k.val
    if e.testBit 0 then
      let gang := e.testBit 1
      let n := if gang then 65536 else 16384
      let pos := bitsAt e 16 4
      .mapped { win := bitsAt e 2 12, gang, cells := cellsAt rd (area + 65536 * pos) n
                farCells := if pair then cellsAt rd (farArea + 65536 * pos) n else [] }
    else if gangAt k.val then .member else .unmapped

def streamOfImage (rd : ImageReader) (k : Nat) : Option Stream :=
  let at_ := 0x6C40 + 128 * k
  if rd (at_ + 104) 8 % 2 = 1 then
    let v := cleanHandle (rd (at_ + 88) 16)
    some { pattern := BitVec.ofNat 512 (rd at_ 64), base := word (rd (at_ + 64) 8), list := word (rd (at_ + 72) 8)
           view := if v = 0 then none else some v, pos := rd (at_ + 80) 8 }
  else none

def fileOfImage (rd : ImageReader) (v : Nat) (e : Option Nat) : VFile :=
  { v := Vector.ofFn fun (k : Fin 64) => BitVec.ofNat 2048 (rd (v + 256 * k.val) 256)
    e := match e with
      | some e => Vector.ofFn fun (k : Fin 64) => BitVec.ofNat 256 (rd (e + 32 * k.val) 32)
      | none => Vector.replicate 64 0 }

/-- The fields of a full image (R376). -/
def Hart.restoreFull (h : Hart) (rd : ImageReader) : Hart :=
  let h := h.restoreCompact rd
  let tiles := ((List.range 8).map fun k =>
    let e := rd (0x6C00 + 8 * k) 8
    if e.testBit 0 then (if e.testBit 1 then 4 else 1) else 0).sum
  let area := 0x7440
  let farV := area + 65536 * tiles
  { h with
    own := fileOfImage rd 0x600 (some 0x4600)
    far := if h.pair then fileOfImage rd farV none else {}
    m := Vector.ofFn fun (k : Fin 8) => if k.val = 0 then 0 else BitVec.ofNat 8192 (rd (0x4E00 + 1024 * (k.val - 1)) 1024)
    ap := Vector.ofFn fun (k : Fin 8) => BitVec.ofNat 512 (rd (0x6A00 + 64 * k.val) 64)
    streams := Vector.ofFn fun (k : Fin 16) => streamOfImage rd k.val
    ac := namesOfImage rd h.pair area (farV + 16384) }

/-! A task that resumes (R374, R378). -/

/-- The first tile of the gang that a tile belongs to. -/
def NodeRec.gangOf (r : NodeRec) (tile : Nat) : Option Nat := if r.gang then some (tile - tile % max 1 r.gsize) else none

/-- A task at its start (R13, R16, R17). -/
def freshHart (gr : Graph) (n : Nat) (r : NodeRec) (tile : Nat) (p : Place) : Hart :=
  { place := p, run := .running, asid := gr.asid, pc := r.entry, leader := r.pair, pair := r.pair, det := r.det
    x := ((Vector.replicate 64 (0 : Word)).set 2 (0x00FFFFFFFFF50000 - word (0x4000 * p.slot))).set 3 r.argp
    csr := {
      slot := BitVec.ofNat 2 p.slot, coreid := word p.core, dieid := word p.die, taskid := word tile, nodeid := word n
      taskn := word r.tiles, argp := r.argp, budget := word r.budget }
    task := {
      ref := some { graph := gr.id, node := n, tile }, donep := r.donep, savep := r.savep
      wmaddr := if r.wmnode.isSome then some r.wmaddr else none
      vregs := r.vregs, accs := r.accs, mmrev := r.mmrev, prio := r.prio, restartable := r.restartable, gang := r.gangOf tile } }

/-- The places of an image's bytes in a context, in pieces of 128 bytes. -/
def State.imagePages (s : State) (die : Nat) (asid : Asid) (va : Word) (n : Nat) : Option (List Target) :=
  (List.range (ceilDiv n 128)).mapM fun k => s.agentTarget (dispatcherReq die asid) (va + word (128 * k))

/-- A reader of the image whose pieces stand at `l`. -/
def State.imageReader (s : State) (die : Nat) (asid : Asid) (l : List Target) : ImageReader := fun off n =>
  ofBytes ((List.range n).map fun k => match l[(off + k) / 128]? with
    | some t => s.byteFrom (dispatcherPlace die) (t.pa + (off + k) % 128) (s.readAddr (dispatcherReq die asid) t + (off + k) % 128)
    | none => 0)

/-- Bytes of the tile area of a full image whose fixed part stands at `head`. -/
def State.tileArea (s : State) (die : Nat) (asid : Asid) (head : List Target) : Nat :=
  65536 * ((List.range 8).map fun k =>
    let e := s.imageReader die asid head (0x6C00 + 8 * k) 8
    if e.testBit 0 then (if e.testBit 1 then 4 else 1) else 0).sum

/-- The hart with its image's fields restored, and where its full image stands, of how many bytes; none while a page of the image is
missing. -/
def State.restored (s : State) (h : Hart) : Option (Hart × Option (Word × Nat)) := do
  let die := h.place.die
  let l ← s.imagePages die h.asid h.imageAddr 1536
  let rd := s.imageReader die h.asid l
  if rd 0 1 = 2 then do
    let fullp := word (rd 8 8)
    let head ← s.imagePages die h.asid fullp 0x7440
    let cells := s.tileArea die h.asid head
    let n := 0x7440 + if h.pair then cells + 16384 + cells else cells
    let l ← s.imagePages die h.asid fullp n
    return (h.restoreFull (s.imageReader die h.asid l), some (fullp, n))
  else return (h.restoreCompact rd, none)

/-- The reads of a task's images set A on their pages (R229). -/
def State.touchImages (s : State) (h : Hart) (full : Option (Word × Nat)) : State :=
  let s := s.agentTouch h.place.die h.asid h.imageAddr 1536
  full.elim s fun p => s.agentTouch h.place.die h.asid p.1 p.2

/-- The views that a hart's handles and streams hold (R326, R337). -/
def Hart.views (h : Hart) : List Handle := (h.h.toList ++ h.streams.toList.filterMap fun st => st.bind (·.view)).filter Handle.live

/-- What firmware and the device keep of a hart that is set aside. -/
def Hart.savedTile (h : Hart) (tile : Nat) : SavedTile := { tile, die := h.place.die, acted := h.acted, views := h.views }

/-- Forget a tile that was set aside, with what is kept for it. -/
def Node.dropSaved (nd : Node) (tile : Nat) : Node :=
  { nd with saved := nd.saved.filter (·.tile != tile), kept := nd.kept.filter (·.tile != tile) }

end Sys2Proof.Machine
end

