-- ==== Sys2Proof/Machine/Tasks.lean ====
section
/-!
DEFINITION. END, LAUNCH, YIELDPT, SLEEPU and DRAIN, OPC 0xC8 FN 0x00, 0x01, 0x02, 0x08 and 0x09 (10:R194, R200, R206;
16:R286; 22:R372).
-/

namespace Sys2Proof.Machine

/-! END (R200). -/

/-- A late failure that is still held is raised at END, once (R286). -/
def raiseAnyLate : Op Unit := do
  match (← get).hart.lates with
  | l :: rest => do
    modHart fun h => { h with lates := rest }
    trap l.cause l.address (l.seq.setWidth 64)
  | [] => pure ()

/-- The completion word of the ending tile counts it (R195). The dispatcher makes the write (R410). -/
def State.countEnded (s : State) (h : Hart) : State :=
  match h.task.ref with
  | none => s
  | some r =>
    let s := s.mapNode r.graph r.node fun n => { n with ended := n.ended + 1 }
    (s.dispatchWord { die := h.place.die, asid := h.asid, graph := r.graph, node := r.node, address := h.task.donep,
                      op := .ended (h.csr.fflags.setWidth 6), completion := true }).1

/-- The hart leaves: streams and handles, its stores, its barriers, its sub-bins, its tiles and its slot, and the completion
word. -/
def State.retireTask (s : State) : State :=
  let s := s.dropViews
  let s := s.release s.hart.place 4
  let h := s.hart
  ((s.leaveBarriers h).sealBins h).leaveSlot.countEnded h

def execEndTask (s : State) : Host.Outcome State Fault Refusal :=
  finish .endTask (do
    if (← get).commandPending s.hart.place then wait
    raiseAnyLate
    markActed
    modify State.retireTask
    pure .placed) s

/-! LAUNCH (R194). -/

/-- Entries of a die's launch queue. -/
def launchCapacity : Nat := 64

/-- The error record of a graph is still to be written. -/
def State.recordWaits (s : State) (g : Nat) : Bool := s.dispWrites.any fun w => w.graph == g && w.ending && w.op.size == 64

/-- The trap of a synchronous LAUNCH, once the error record has been written. -/
def launchFailed (g code : Nat) (record : Word) : Op Unit := do
  if (← get).recordWaits g then wait
  else do
    modHart fun h => { h with launched := none }
    trap .launchError record (word code)

/-- A LAUNCH that has been given its ticket (R194). -/
def launchTaken (d : Reg) (die : Nat) (ticket : Word) : Op Unit := do
  modify fun s => s.setDie die { s.die die with launchSeq := ticket + 1 }
  markActed
  setX d ticket

/-- Submit the graph at an address. A synchronous LAUNCH then waits for the end of its validation. -/
def launchGraph (o : GOp) : Op Unit := do
  auReads [o.a]
  let s ← get
  let a := s.x o.a
  let asid := s.hart.accessAsid
  let die := s.hart.place.die
  trapIf (decide (2 ^ 56 ≤ a.toNat)) .protection a
  trapIf (a.toNat % 64 != 0) .misalignedAccess a
  releaseOp 4
  let d := (← get).die die
  if launchCapacity ≤ d.launch.length then wait
  else do
    launchTaken o.d die d.launchSeq
    modify fun s => s.setDie die { s.die die with launch := d.launch ++ [(asid, a)] }
    if o.fl.getLsbD 0 then do
      modHart fun h => { h with launched := some (.queued d.launchSeq) }
      wait
    else pure ()

def execLaunch (o : GOp) (s : State) : Host.Outcome State Fault Refusal :=
  finishNext (.launch o) (match s.hart.launched with
    | none => launchGraph o
    | some (.queued _) => wait
    | some .passed => modHart fun h => { h with launched := none }
    | some (.failed g code record) => launchFailed g code record) s

/-- The end of the validation of the graph with a ticket of a die's queue: the LAUNCH that waits for it goes on. -/
def State.answerLaunch (s : State) (die : Nat) (ticket : Word) (graph : Nat) (bad : Option BadGraph) : State :=
  let f (h : Hart) : Hart :=
    if h.place.die == die && h.launched == some (.queued ticket) then
      { h with launched := some (match bad with
          | some b => .failed graph b.code b.record
          | none => .passed) }
    else h
  { s with hart := f s.hart, parked := s.parked.map f }

/-! YIELDPT (R372). -/

/-- An accumulator name is mapped, or a stream is on. -/
def Hart.holdsBack (h : Hart) : Bool := h.ac.toList.any (· != .unmapped) || h.streams.toList.any (·.isSome)

/-- The slot is freed, and the tile waits to be placed again (R374, R378). Handles, barriers and sub-bins stay. -/
def State.setAside (s : State) : State :=
  let h := s.hart
  let s := match h.task.ref with
    | some r =>
      let l := s.keepBlocks h r.tile
      (s.renewKept l).mapNode r.graph r.node fun n => { n with saved := n.saved ++ [h.savedTile r.tile], kept := n.kept ++ l }
    | none => s
  s.leaveSlot

def execYieldpt (s : State) : Host.Outcome State Fault Refusal :=
  finish .yieldpt (do
    let h := s.hart
    if h.firmware || !(h.csr.preempt.getLsbD 0) || h.holdsBack then pure .next
    else if s.commandPending h.place then wait
    else do
      releaseOp 4
      let q := h.req (write := true)
      let image := h.compactImage 1 0 s.cycle
      let l ← check ((← get).checkImage q h.imageAddr image)
      let missing := missingPieces l
      if !missing.isEmpty then pageFault q 0 missing
      writeImage q image l
      releaseOp 4
      modify State.setAside
      pure .placed) s

/-! Waits (R206). -/

def execSleepu (o : GOp) (s : State) : Host.Outcome State Fault Refusal :=
  finishNext (.sleepu o) (do
    auReads [o.a]
    let s ← get
    if s.cycle < s.x o.a then wait else pure ()) s

/-- The load, store and branch queues of R270 are empty between two instructions; the engine command queue holds the commands
that no engine has taken. -/
def execDrain (o : GOp) (s : State) : Host.Outcome State Fault Refusal :=
  finishNext (.drain o) (do
    illegalIf (o.imm.toNat % 16 = 0)
    if o.imm.getLsbD 3 && s.cmds.any fun c => c.place == s.hart.place && !c.taken then wait else pure ()) s

end Sys2Proof.Machine
end

