-- ==== Sys2Proof/Machine/Engines.lean ====
section
/-!
DEFINITION. What the engines do of themselves: the accesses and the completion of a command, fault service, the marking of a
frame, the passes of the Sieve, stream refills, the Scraper, the pick of the diagonal engine, and the ends of waits
(08:R165, R170; 14:R259; 15:R279; 16:R286, R287, R290 to R300; 18:R316, R317, R321; 19:R338; 23:R386, R394, R395).
-/

namespace Sys2Proof.Machine

/-! What stops an access of a command (R286). -/

inductive ElemStop where
  | absent (q : Req) (va : Word) (bad : Bool)
  | failure (cause : Cause) (va : Word)
  deriving DecidableEq, Repr

/-- What an engine does; a stop keeps what the accesses before it have left. -/
abbrev EngineOp := EStateM ElemStop State

def Cmd.req (c : Cmd) : Req := { place := c.place, asid := c.asid, after := c.ordered }

/-- A checked location as an engine takes it. -/
def located (q : Req) (r : Except Trap (Word × Located)) : EngineOp (Word × Target) :=
  match r with
  | .error t => throw (.failure t.cause t.addr)
  | .ok (va, .absent bad) => throw (.absent q va bad)
  | .ok (va, .at_ t) => pure (va, t)

/-- An engine reads `n` bytes; where the command cannot take poisoned ones, they are a late failure (R286). -/
def engineBytes (q : Req) (r : Except Trap (Word × Located)) (n : Nat) : EngineOp Nat := do
  let (va, t) ← located q r
  modify fun s => s.touch q t
  let s ← get
  if s.poisonAt q t n then throw (.failure .poisonedData va) else pure (s.readAt q t n)

/-- The index-list word that element `n` of a side uses; 0 for a side without one. -/
def listWord (c : Cmd) (sd : Side) (n : Nat) : EngineOp Nat := do
  let s ← get
  match sd.pattern with
  | some p =>
    if APReg.indexed p then engineBytes c.req (s.checkAccess c.req (.plain sd.list) ((4 * APReg.listIndex p n : Nat) : Int) 4) 4 else pure 0
  | none => pure 0

/-- The place of element `n` of a side: the checks of R285 on it. -/
def State.sideTarget (s : State) (c : Cmd) (sd : Side) (n entry : Nat) (write store : Bool) : Except Trap (Word × Located) :=
  let q := sd.req c.req write
  let o := sd.offset n entry
  let va := s.addrAt q.asid sd.origin o
  if !store then s.checkAccess q sd.origin o sd.size
  else if 2 ^ 56 ≤ va.toNat then .error { cause := .protection, addr := va }
  else if va.toNat % sd.size != 0 then .error { cause := .misalignedAccess, addr := va }
  else do return (va, ← s.locateStore q va)

/-- A page of protected class (R221). -/
def Target.protected_ (t : Target) : Bool :=
  match t with
  | .page x => Entry.cls x.entry == 3
  | _ => false

/-- The context takes the weight store that a WSLOAD writes, unless it has an owner (R215, R293; notes/assumptions/76.md). -/
def State.ownTarget (s : State) (c : Cmd) (va : Word) : State :=
  match regionOf c.place.die va with
  | .weights die _ => s.ownStore c.asid die
  | _ => s

/-- Move element `n`, `conv` giving its value and flags (R290, R291, R293). Poison moves with it (R286). -/
def copyElem (c : Cmd) (src dst : Side) (store : Bool) (conv : Nat → Nat × Flags) (n : Nat) : EngineOp Flags := do
  let e1 ← listWord c src n
  let e2 ← listWord c dst n
  let q1 := src.req c.req false
  let q2 := dst.req c.req true
  let (va, t1) ← located q1 ((← get).sideTarget c src n e1 false false)
  let (va2, t2) ← located q2 ((← get).sideTarget c dst n e2 true store)
  if t1.protected_ && !t2.protected_ then throw (.failure .protectedEgress va)
  else do
    modify fun s => s.touch q1 t1
    let s ← get
    let (v, fl) := conv (s.readAt q1 t1 src.size)
    let s := if store then s.ownTarget c va2 else s
    set (s.writeTarget q2 t2 (toBytes dst.size v) (s.poisonAt q1 t1 src.size))
    pure fl

/-- The conversion of COPYCV on element `n` (R291). -/
def copyConvert (conv mode : Nat) (sat : Bool) (seed srbase : Word) (n v : Nat) : Nat × Flags :=
  let widen := decide (2 ≤ conv)
  let src := if widen then (if conv = 2 then e4m3 else e5m2) else bf16
  let dst := if widen then bf16 else if conv = 0 then e4m3 else e5m2
  let rnd : Rnd :=
    if mode = 1 then { mode := .rtz }
    else if mode = 2 then { mode := .sr, r := randomWord seed (srbase + word n) }
    else { mode := .rne }
  let x := src.value v
  let (y, fl) := dst.round rnd sat x
  (y, fl ||| nvOf [x])

/-! Drains (R300). -/

def DrainJob.rnd (j : DrainJob) (n : Nat) : Rnd :=
  let mode := Mode.ofCode j.mode
  { mode, r := if mode = .sr then randomWord j.seed (j.srbase + word n) else 0 }

/-- An atomic of a drain at an address, with the checks of R246; its task may not be rerun after it (R380). -/
def drainAtomic (c : Cmd) (va : Word) (t : Target) (n : Nat) (f : Nat → Option Nat × Flags) : EngineOp Flags := do
  let q : Req := { c.req with write := true, atomic := true }
  let s ← get
  let _ ← located q (do return (va, ← s.locateFor q va))
  modify fun s => (s.touch q t).settle q t.pa n
  if (← get).poisonIn q.place t.pa t.pa n then throw (.failure .poisonedData va)
  else do
    let (s, _, fl) := (← get).atomicAt q t n f
    set (s.mapHart c.place fun h => { h with acted := true })
    pure fl

/-- Cell `k` of the unclipped cells. -/
def drainElem (c : Cmd) (j : DrainJob) (k : Nat) : EngineOp Flags :=
  match j.cells[k]? with
  | none => pure 0
  | some (cell, n, off) => do
    let q : Req := { c.req with write := true, atomic := j.add }
    let (v, f1) := j.tile.cell j.paired (isFp j.fmt) cell
    let (y, f2) := drainConvert j.fmt false 0 (j.rnd n) j.sat v
    let (va, t) ← located q ((← get).checkAccess q (.plain j.base) off j.size)
    let f3 ← if j.add then drainAtomic c va t j.size fun old => Amo.apply (if isFp j.fmt then .fadd else .add) 32 old 0 y
      else do
        modify fun s => s.writeTarget q t (toBytes j.size y)
        pure 0
    pure (f1 ||| f2 ||| f3)

/-- The maximum over the unclipped cells, merged at completion (R185). -/
def drainMaximum (c : Cmd) (j : DrainJob) (a : Word) : EngineOp Flags := do
  let q : Req := { c.req with write := true, atomic := true }
  let (va, t) ← located q ((← get).checkAccess q (.plain a) 0 4 .atomicAlignment)
  let fp := isFp j.fmt
  let (m, f1) := drainMax fp (j.cells.map fun p => (j.tile.cell j.paired fp p.1).1)
  let f2 ← drainAtomic c va t 4 fun old => Amo.apply .fmax 32 old 0 m
  pure (f1 ||| f2)

/-! The mark unit (R394, R395). -/

/-- The pixels of an 8 × 8 block that carry its bit. -/
def markedPixel (r c : Nat) : Bool := (r % 8 == 2 || r % 8 == 5) && (c % 8 == 2 || c % 8 == 5)

/-- KMAC256's customisation string, "UMN-MARK". -/
def markCustom : List Byte := [0x55, 0x4D, 0x4E, 0x2D, 0x4D, 0x41, 0x52, 0x4B]

/-- The marked frame of `w` × `h` pixels. -/
def markFrame (w h delta : Nat) (identifier : Word) (n : BitVec 32) (pixels : List Byte) : List Byte :=
  let wb := w / 8
  let key := kmac256 Config.markKey (toBytes 4 n.toNat ++ toBytes 8 identifier.toNat) (ceilDiv (w * h / 64) 8) markCustom
  let payload := identifier.toNat + 2 ^ 64 * n.toNat
  pixels.zipIdx.map fun p =>
    let r := p.2 / w
    let c := p.2 % w
    if markedPixel r c then
      let j := c / 8 + r / 8 * wb
      let up := payload.testBit (j % 96) != (key.getD (j / 8) 0).getLsbD (j % 8)
      if up then BitVec.ofNat 8 (min 255 (p.1.toNat + delta)) else BitVec.ofNat 8 (p.1.toNat - delta)
    else p.1

/-- The 80 bytes of a manifest that are signed. -/
def manifestHead (w h delta : Nat) (identifier : Word) (n : BitVec 32) (frame : List Byte) : List Byte :=
  toBytes 4 0x4B52414D ++ toBytes 2 w ++ toBytes 2 h ++ toBytes 8 identifier.toNat ++ toBytes 4 n.toNat ++
    toBytes 4 delta ++ toBytes 8 0 ++ sha3_384 frame

/-- The manifest of a marked frame, 4,096 bytes, signed with the device's identity keys (R395, R397). -/
def manifest (w h delta : Nat) (identifier : Word) (n : BitVec 32) (frame : List Byte) : List Byte :=
  let head := manifestHead w h delta identifier n frame
  head ++ toBytes 64 (ofBytes (ed25519Sign (toBytes 32 Config.ed25519Secret.toNat) head)) ++
    toBytes 3309 (ofBytes (mlDsaSign (toBytes 32 Config.mlDsaSecret.toNat) head (toBytes 32 (Config.mlDsaRandom head).toNat))) ++
    toBytes 643 0

/-- A manifest is valid when both of its signatures verify under the device's keys (R395). -/
def manifestValid (m : List Byte) : Bool :=
  let head := m.take 80
  ed25519Verify (ed25519PublicKey (toBytes 32 Config.ed25519Secret.toNat)) head ((m.drop 0x50).take 64) &&
    mlDsaVerify (mlDsaPublicKey (toBytes 32 Config.mlDsaSecret.toNat)) head ((m.drop 0x90).take 3309)

/-- Read the pixels of a frame; a poisoned one is a late failure. -/
def framePixels (c : Cmd) (src : Side) (n : Nat) : EngineOp (List Byte) :=
  (List.range n).mapM fun k => do
    return BitVec.ofNat 8 (← engineBytes (src.req c.req false) ((← get).sideTarget c src k 0 false false) 1)

/-- The places of bytes from an address on, in pieces of 64 bytes. -/
def writePlaces (c : Cmd) (base : Word) (n : Nat) : EngineOp (List Target) :=
  let q : Req := { c.req with write := true }
  (List.range (n / 64)).mapM fun k => do
    return (← located q ((← get).checkAccess q (.plain (base + word (64 * k))) 0 64)).2

def State.writePieces (s : State) (c : Cmd) (places : List Target) (bytes : List Byte) : State :=
  places.zipIdx.foldl (fun s p => s.writeTarget { c.req with write := true } p.1 ((bytes.drop (64 * p.2)).take 64)) s

/-- The whole of MKOUT: nothing is written unless all can be. -/
def markOut (c : Cmd) (src dst : Side) (w h delta : Nat) (identifier : Word) (n : BitVec 32) : EngineOp Unit := do
  let pixels ← framePixels c src (w * h)
  let frame := markFrame w h delta identifier n pixels
  let l1 ← writePlaces c dst.base (w * h)
  let l2 ← writePlaces c (dst.base + word (ceilDiv (w * h) 128 * 128)) 4096
  modify fun s => (s.writePieces c l1 frame).writePieces c l2 (manifest w h delta identifier n frame)

/-! Commands of the Sieve (R321). -/

/-- Tiles of a set's node that have ended, of how many. -/
def State.setTiles (s : State) (b : BinSet) : Nat × Nat :=
  match b.graph.bind fun g => s.node? g b.node with
  | some n => (n.ended + n.killed, n.record.tiles)
  | none => (0, 0)

/-- BREPLAY may end now. -/
def State.replayDone (s : State) (b : BinSet) : Bool :=
  let (ended, tiles) := s.setTiles b
  tiles ≤ ended && (b.failure.isSome || tiles ≤ b.horizon)

/-! One access of a command, and all of them. -/

def Cmd.elements (c : Cmd) : Nat :=
  match c.kind with
  | .copy n _ _ | .copyCv n .. | .wsload n _ _ => n
  | .adrainm j => j.cells.length + if j.maxAt.isSome then 1 else 0
  | .mkout .. | .breplay _ | .bflush _ => 1

/-- What an element did. -/
inductive ElemDone where
  | moved (s : State) (flags : Flags) (bytes : Nat)
  | ended (s : State) (flags : Flags) (failure : Option (Cause × Word))
  | waits
  | stopped (s : State) (e : ElemStop)

def moved (bytes : Nat) (r : EStateM.Result ElemStop State Flags) : ElemDone :=
  match r with
  | .ok fl s => .moved s fl bytes
  | .error e s => .stopped s e

/-- Element `c.done` of a command. -/
def State.performNext (s : State) (c : Cmd) : ElemDone :=
  match c.kind with
  | .copy _ src dst => moved dst.size (copyElem c src dst false (fun v => (v, 0)) c.done s)
  | .copyCv _ conv mode sat src dst seed srbase =>
    moved dst.size (copyElem c src dst false (copyConvert conv mode sat seed srbase c.done) c.done s)
  | .wsload _ src dst => moved dst.size (copyElem c src dst true (fun v => (v, 0)) c.done s)
  | .mkout src dst w h delta identifier n =>
    moved (w * h + 4096) ((do markOut c src dst w h delta identifier n; pure 0 : EngineOp Flags) s)
  | .adrainm j =>
    if c.done < j.cells.length then moved j.size (drainElem c j c.done s)
    else
      match j.maxAt with
      | some a => moved 0 (drainMaximum c j a s)
      | none => .moved s 0 0
  | .breplay pa =>
    match s.set? pa with
    | none => .moved s 0 0
    | some b => if s.replayDone b then .ended (s.dropSet b) b.flags b.failure else .waits
  | .bflush pa =>
    match s.set? pa with
    | none => .moved s 0 0
    | some b => .ended (s.dropSet b) b.flags b.failure

/-- The command after an element. -/
def Cmd.after? (c : Cmd) (flags : Flags) (bytes : Nat) : Cmd :=
  { c with done := c.done + 1, flags := c.flags ||| flags, bytes := c.bytes + bytes, isOver := decide (c.elements ≤ c.done + 1) }

/-- Where a command's accesses have got to. -/
inductive Ran where
  | isOver
  | waits
  | absent (q : Req) (va : Word) (bad : Bool)
  /-- One element moved; more are left. -/
  | more
  deriving DecidableEq, Repr

/-- Perform at most `fuel` elements. A command without elements is over at once. A protection that a walk has confirmed leaves no TLB
copy of the page (R230). -/
def State.runCmd : Nat → State → Cmd → State × Cmd × Ran
  | 0, s, c => (s, { c with isOver := c.isOver || c.elements == 0 }, if c.isOver || c.elements == 0 then .isOver else .more)
  | fuel + 1, s, c =>
    if c.isOver || c.elements == 0 then (s, { c with isOver := true }, .isOver)
    else
      match s.performNext c with
      | .moved s' fl n => State.runCmd fuel s' (c.after? fl n)
      | .ended s' fl failure => (s', { c.after? fl 0 with isOver := true, failure }, .isOver)
      | .waits => (s, c, .waits)
      | .stopped s' (.absent q va bad) => (s', c, .absent q va bad)
      | .stopped s' (.failure cause va) =>
        (if cause = .protection then s'.dropCopies c.place c.asid va else s', { c with isOver := true, failure := some (cause, va) }, .isOver)

/-! Completion (R287, R296). -/

/-- A part of a ring object at its home slice; none for what is no ring any more. -/
def State.ringPart (s : State) (c : Cmd) (a : Word) (n : Nat) : Except ElemStop (Option Target) :=
  let q : Req := { c.req with write := true, only := [0] }
  match s.checkAccess q (.plain a) 0 n with
  | .ok (va, .absent bad) => .error (.absent q va bad)
  | .ok (_, .at_ (.page x)) => .ok (some (.page x))
  | _ => .ok none

/-- A read of a ring object for a command sets A on its page (R229). -/
def State.touchRing (s : State) (c : Cmd) (r : Except ElemStop (Option Target)) : State :=
  match r with
  | .ok (some t) => s.touch { c.req with only := [0] } t
  | _ => s

/-- The bytes of a target as its home slice reads them for a command. -/
def State.sliceNat (s : State) (c : Cmd) (t : Target) (n : Nat) : Nat := (s.settle c.req t.pa n).memNat t.pa n

/-- The state word at an address is FULL. -/
def State.slotFull (s : State) (c : Cmd) (a : Word) : Bool :=
  match s.ringPart c a 8 with
  | .ok (some t) => stateFull (s.sliceNat c t 8)
  | _ => false

/-- A write at a home slice. -/
def State.slicePut (s : State) (c : Cmd) (t : Target) (n v : Nat) : State := s.putHome { c.req with write := true } t (toBytes n v)

/-- The header of a command's ring, with its place; none if it names no slot any more. -/
def State.ringHead (s : State) (c : Cmd) (ring : Word) : Except ElemStop (Option (Ring × Target)) := do
  match ← s.ringPart c ring 64 with
  | none => return none
  | some t =>
    let r := ringOf (s.sliceNat c t 64)
    return if r.slots = 0 then none else some (r, t)

/-- The state word that a completed command writes (R295). -/
def Cmd.stateWord (c : Cmd) (seq : BitVec 32) : Nat :=
  Sys2Proof.Machine.stateWord (c.failure.map (·.1)) (match c.kind with
    | .breplay _ | .bflush _ => 0
    | _ => c.bytes) seq

/-- Fill the command's slot under the geometry that the header has now: the state afterwards and the state word's address. -/
def State.fillSlot (s : State) (c : Cmd) : Except ElemStop (State × Option Word) :=
  match c.ring with
  | none => .ok (s, none)
  | some (ring, seq) => do
    match ← s.ringHead c ring with
    | none => return (s, none)
    | some (r, t) =>
      let s := s.touchRing c (.ok (some t))
      match ← s.ringPart c (r.stateAt ring seq) 8 with
      | none => return (s, none)
      | some slot => return (s.slicePut c slot 8 (c.stateWord seq), some (r.stateAt ring seq))

/-- Advance WPTR over every filled slot that follows it, and what keeps the Ladle from going on: whether the slot after them is filled
cannot be told while its state word's page is missing (R286, R296). -/
def State.advanceRing (s : State) (c : Cmd) : State × Option ElemStop :=
  match c.ring with
  | none => (s, none)
  | some (ring, _) =>
    match s.ringHead c ring with
    | .error e => (s, some e)
    | .ok none => (s, none)
    | .ok (some (r, t)) =>
      let wptr := advanceWptr (fun p => s.slotFull c (r.stateAt ring p)) r.cptr r.slots r.wptr
      let seen := (List.range ((wptr - r.wptr).toNat + if wptr = r.cptr then 0 else 1)).map fun k => r.wptr + BitVec.ofNat 32 k
      let s := seen.foldl (fun s p => s.touchRing c (s.ringPart c (r.stateAt ring p) 8)) (s.touchRing c (.ok (some t)))
      let next : Except ElemStop (Option Target) := if wptr = r.cptr then .ok none else s.ringPart c (r.stateAt ring wptr) 8
      (if wptr = r.wptr then s else s.slicePut c t 64 { r with wptr }.bits, match next with
        | .error e => some e
        | .ok _ => none)

/-- The command's effects on its hart: the flags, and the late failure that will be raised there (R286, R287). -/
def Hart.takeCompletion (h : Hart) (c : Cmd) (slot : Option Word) : Hart :=
  { h with
    csr := { h.csr with fflags := h.csr.fflags ||| c.flags.setWidth 64 }
    acted := h.acted || c.ring.isSome
    lates := match c.failure with
      | some (cause, address) => h.lates ++ [{ cause, address, seq := c.ring.elim 0 (·.2), slot }]
      | none => h.lates }

def State.putCmd (s : State) (k : Nat) (c : Cmd) : State := { s with cmds := s.cmds.set k c }

def Cmd.requester (c : Cmd) : Requester :=
  { src := 2, epc := c.epc, die := c.place.die, core := c.place.core, slot := c.place.slot, taskid := c.taskid.toNat,
    node := c.nodeid.toNat, rseq := c.ring.elim 0 fun r => r.2.toNat }

/-- The command meets a page that is not resident: a fault record, and it waits. While the queue takes none it has not yet
done so (R286, R362). -/
def State.blockCmd (s : State) (k : Nat) (c : Cmd) (q : Req) (va : Word) (bad : Bool) : State :=
  if s.queueTakes c.place.die 1 then (s.pushRecord c.place.die c.requester q va bad 1).putCmd k { c with blocked := true }
  else s.putCmd k c

def State.stopCmd (s : State) (k : Nat) (c : Cmd) : ElemStop → State
  | .absent q va bad => s.blockCmd k c q va bad
  | .failure _ _ => s.putCmd k c

/-- A promise that the Ladle has missed is counted (R288). -/
def State.countMissed (s : State) (c : Cmd) : State :=
  if c.promise < s.cycle then s.setDie c.place.die { s.die c.place.die with missed := satIncr (s.die c.place.die).missed } else s

/-- A command whose slot is filled advances WPTR and leaves. -/
def State.leaveCmd (s : State) (k : Nat) (c : Cmd) : State :=
  match s.advanceRing c with
  | (s, some e) => s.stopCmd k c e
  | (s, none) => ({ s with cmds := s.cmds.eraseIdx k }).countMissed c

/-- Everything has performed at package scope; the slot is filled, the hart takes the result, and the command leaves (R287). -/
def State.completeCmd (s : State) (k : Nat) (c : Cmd) : State :=
  let s := s.release c.place 4
  if c.filled then s.leaveCmd k c
  else
    match s.fillSlot c with
    | .error e => s.stopCmd k c e
    | .ok (s, slot) => (s.mapHart c.place fun h => h.takeCompletion c slot).leaveCmd k { c with filled := true }

/-- Command `k` may be worked on: it is not blocked, and what must come before it is complete (R289). -/
def State.mayRun (s : State) (k : Nat) (c : Cmd) : Bool :=
  !c.blocked && (s.cmds.take k).all fun o => o.place != c.place ||
    (!c.after && !(c.claims.any fun a => o.claims.any fun b => b.conflicts a.lo (a.hi - a.lo) a.write))

/-- Work on command `k` with `fuel` elements; it completes when it is over. -/
def State.workOn (s : State) (k fuel : Nat) : State :=
  match s.cmds[k]? with
  | none => s
  | some c =>
    if !s.mayRun k c then s
    else
      match s.runCmd fuel { c with taken := true } with
      | (s, c, .isOver) => s.completeCmd k c
      | (s, c, .absent q va bad) => s.blockCmd k c q va bad
      | (s, c, _) => s.putCmd k c

/-- The position that an event names. -/
def positionOf : EventArg → Option Nat
  | .index k | .cannotMap k => some k
  | _ => none

/-- An event on a position of the state, if it names one. -/
def atPosition (s : State) (f : Nat → State) : Host.Outcome State Fault Refusal :=
  .next ((positionOf s.arg).elim s f)

def execCommandCompletion (s : State) : Host.Outcome State Fault Refusal :=
  atPosition s fun k => s.workOn k (((s.cmds[k]?).elim 0 fun c => c.elements - c.done) + 1)

/-! Service of the engines' page faults (R286, R317). -/

/-- The command still meets the missing page. -/
def State.stillAbsent (s : State) (c : Cmd) : Bool :=
  if c.isOver then
    if c.filled then (s.advanceRing c).2.isSome else (s.fillSlot c).isOk == false
  else
    match s.performNext c with
    | .stopped _ (.absent _ _ _) => true
    | _ => false

/-- Firmware kills the task of a hart: its graph aborts with what the task's trap registers hold (R196, R365). The code is
0x40, and 0x42 for a task that waits at an orphaned barrier and has taken no trap (R192; DEDUCED, notes/assumptions/77.md). -/
def State.failTask (s : State) (p : Place) : State :=
  match s.harts.find? fun h => h.place == p && h.run == .running with
  | none => s
  | some h =>
    let orphan := !h.firmware && s.waitsOrphaned h
    let s := s.killAt p false
    let cause := h.csr.ecause.toNat % 256
    match h.task.ref with
    | some r => s.abortGraph p.die r.graph (if orphan then 0x42 else 0x40) r.node (if orphan then 0 else cause) (word r.tile) h.csr.epc
        h.csr.eaddr
    | none => s

def execLadleFaultResume (s : State) : Host.Outcome State Fault Refusal :=
  match s.arg with
  | .index k => .next (match s.cmds[k]? with
    | some c => if c.blocked && !s.stillAbsent c then s.putCmd k { c with blocked := false } else s
    | none => s)
  | .cannotMap k => .next (match s.cmds[k]? with
    | some c => if c.blocked then s.failTask c.place else s
    | none => s)
  | _ => .next s

/-- The pass of the horizon's sub-bin that stops first: its region and what stops it. -/
def State.firstStop (s : State) (b : BinSet) : Option (Nat × EntryStop) :=
  let l := (b.bin b.horizon).entries
  (sortDistinct (l.map b.region)).findSome? fun r =>
    (s.applicable b b.horizon (l.filter (b.region · == r))).2.map fun stop => (r, stop)

/-- The pass that stands before a missing page, and the page's address. -/
def State.missingEntry (s : State) (b : BinSet) : Option (Nat × Word) :=
  match s.firstStop b with
  | some (r, .absent _ va _) => some (r, va)
  | _ => none

/-- A pass whose page firmware cannot map: the entries before it are applied, and the set fails (R317). -/
def State.failPass (s : State) (b : BinSet) (region : Nat) (va : Word) : State :=
  let (l, _) := s.applicable b b.horizon ((b.bin b.horizon).entries.filter (b.region · == region))
  let (s, fl) := s.applyEntries b b.horizon l
  s.putSet { b.applied b.horizon region l.length fl with failure := some (.pageFault, va), blocked := none }

/-- The page that a set's pass waits for is still missing. -/
def State.stillMissing (s : State) (b : BinSet) : Bool :=
  b.blocked.elim false fun va => match s.translate b.req va with
    | .absent _ => true
    | _ => false

def execSieveFaultResume (s : State) : Host.Outcome State Fault Refusal :=
  match s.arg with
  | .index k => .next (match s.sets[k]? with
    | some b => if b.blocked.isSome && !s.stillMissing b then s.putSet { b with blocked := none } else s
    | none => s)
  | .cannotMap k => .next (match s.sets[k]? with
    | some b =>
      match s.missingEntry b with
      | some (r, va) => if b.blocked == some va then s.failPass b r va else s
      | none => s
    | none => s)
  | _ => .next s

def execSieveApply (s : State) : Host.Outcome State Fault Refusal :=
  atPosition s fun k => (s.sets[k]?).elim s s.sieveApply

/-! Stores that perform later (R259, R385, R386). -/

/-- A store performs for every agent, after those that it follows (R260, R262). -/
def State.performAt (s : State) (k : Nat) (held : Bool) : State :=
  match s.pend[k]? with
  | some p => if p.held == held then s.performPending (·.id == p.id) else s
  | none => s

/-- The store has performed for the agents of a die. -/
def PendStore.shown (p : PendStore) (die : Nat) : Bool := !p.held && (p.place.die == die || p.seen.contains die)

/-- A store performs for one more die, whose agents have seen the stores that it follows (R263). It then comes, in its bytes' write
order, before every store that only its own die has seen. -/
def State.showAt (s : State) (k die : Nat) : State :=
  match s.pend[k]? with
  | none => s
  | some p =>
    if p.held || 4 ≤ die || p.shown die || (s.pend.take k).any fun o => p.follows o && !o.shown die then s
    else
      let new := { p with seen := insertDistinct die p.seen }
      if !p.seen.isEmpty then { s with pend := s.pend.set k new }
      else
        let others := s.pend.eraseIdx k
        { s with pend := others.takeWhile (!·.seen.isEmpty) ++ new :: others.dropWhile (!·.seen.isEmpty) }

/-- A store performs at package scope, or for one more die; or one access of a command performs. The commands follow the stores. -/
def execAccessPerform (s : State) : Host.Outcome State Fault Refusal :=
  match s.arg with
  | .seenBy k die => .next (s.showAt k die)
  | _ => atPosition s fun k => if k < s.pend.length then s.performAt k false else s.workOn (k - s.pend.length) 1

def execRdWritePerform (s : State) : Host.Outcome State Fault Refusal := atPosition s fun k => s.performAt k true

/-! Streams, granules, tiles. -/

/-- Bytes that a stream's buffer holds at most (R277). -/
def streamBuffer : Nat := 1024

/-- Read ahead into a stream register's buffer: `n` more elements, or as many as there are and fit (R279). -/
def refill (r n : Nat) : Op Unit :=
  (List.range n).forM fun _ => do
    let h := (← get).hart
    match h.stream r with
    | none => pure ()
    | some st =>
      let next := st.pos + st.buf.length
      if next < APReg.total st.pattern && (st.buf.length + 1) * APReg.size st.pattern ≤ streamBuffer then do
        let v ← streamElem h.streamReq st next
        modHart fun h => h.setStream r (some { st with buf := st.buf ++ [match v with
          | .ok v => .value v
          | .error f => .failure f] })

def execStreamRefill (s : State) : Host.Outcome State Fault Refusal :=
  match s.arg with
  | .refill v n =>
    match refill v.toNat n s with
    | .ok _ s' => .next s'
    | .error _ _ => .next s
  | _ => .next s

/-- A pending command's view touches the granule. -/
def Cmd.views (c : Cmd) (g : Nat) : Bool :=
  let side (sd : Side) : Bool := sd.view.elim false fun v => (Handle.granules v).contains g
  match c.kind with
  | .copy _ a b | .wsload _ a b => side a || side b
  | .copyCv _ _ _ _ a b _ _ => side a || side b
  | .mkout a b .. => side a || side b
  | _ => false

/-- A store that was made through a view of the granule, in its context, has not performed for every agent: the view may since have passed to
another hart (R336, R338). -/
def State.viewPending (s : State) (asid : Asid) (g : Nat) : Bool :=
  s.pend.any fun p => p.asid == asid && p.view.elim false fun v => (Handle.granules v.2).contains g

/-- A store to a granule has not performed for every agent. -/
def State.granulePending (s : State) (asid : Asid) (g : Nat) : Bool :=
  (sortDistinct (s.pend.map (·.place.die))).any fun die =>
    let stores := s.pend.filter (·.place.die == die)
    (List.range 512).any fun k =>
      match s.walk die asid (s.granuleAddr asid g + word (128 * k)) with
      | .hit x => stores.any (·.overlaps x.pa 128)
      | _ => false

/-- The Scraper frees a granule, once what was done through its views has performed (R338). -/
def execScraperFree (s : State) : Host.Outcome State Fault Refusal :=
  match s.arg with
  | .granule asid g => .next (match s.arena asid with
    | some a =>
      if a.allocated g && a.count g == 0 && !(s.cmds.any fun c => c.asid == asid && c.views g) && !(s.viewPending asid g) &&
          !(s.granulePending asid g) then
        s.mapArena asid fun a => a.setWord g false 0
      else s
    | none => s)
  | _ => .next s

/-- Tiles that pending drains of the running hart still read after they have retired, each once (R165). -/
def State.heldTiles (s : State) : Nat :=
  ((sortDistinct (s.drains.filterMap (·.retired))).map fun k =>
    (s.drains.find? (·.retired == some k)).elim 0 fun j => AcName.tiles (.mapped j.tile)).sum

def execTileReturn (s : State) : Host.Outcome State Fault Refusal :=
  .next { s with hart := { s.hart with retiring := min s.hart.retiring s.heldTiles } }

/-! The diagonal engine's pick (R170). -/

/-- The diagonal instruction that a hart stands at, and the run that it asks for. -/
def State.diagonalAt (s : State) (h : Hart) : Option (Instr × Option Run) :=
  match fetchInstr { s with hart := h } with
  | .ok (.dprod o) _ => some (.dprod o, h.diagonalLegal .dprod o)
  | .ok (.dcorr o) _ => some (.dcorr o, h.diagonalLegal .dcorr o)
  | .ok (.dapply o) _ => some (.dapply o, h.diagonalLegal .dapply o)
  | _ => none

/-- The estimate of a run's first step on a hart's registers, against the core's previous step. -/
def State.stepEstimate (s : State) (h : Hart) (r : Run) : Nat :=
  let lead := r.halves.headD (0, 0)
  match (r.steps h.own h.own lead.1 lead.2).head? with
  | some step => toggleEstimate (container r.fmt) step (s.steps.get {} (coreKey h.place.die h.place.core))
  | none => 0

/-- The estimate of the first step of a hart's run, with the windows that stream as their pops give them; none while a pop has to wait,
so that the range checker does not let the instruction start (R171). One whose checks or pops fail has the estimate 0 (DESIGN CHOICE,
notes/assumptions/116.md). -/
def State.firstEstimate (s : State) (h : Hart) (run : Option Run) : Option Nat :=
  match run with
  | none => some 0
  | some r =>
    match popWindows r { s with hart := h } with
    | .ok _ t => some (s.stepEstimate t.hart r)
    | .error (.trap _) _ => some 0
    | .error .wait _ => none

/-- The head of a hart slot's queue of the diagonal engine: the first step's estimate, and its dispatch time. -/
structure QueueHead where
  place : Place
  estimate : Nat
  since : Word
  deriving DecidableEq, Repr

/-- The harts of a core that stand at a diagonal instruction which may start. -/
def State.queueHeads (s : State) (die core : Nat) : List QueueHead :=
  s.harts.filterMap fun h =>
    if h.run == .running && h.place.die == die && h.place.core == core && h.faulting.isNone && !(State.atStop { s with hart := h }) then
      (s.diagonalAt h).bind fun d => (s.firstEstimate h d.2).map fun e => { place := h.place, estimate := e, since := h.arrived }
    else none

/-- A head comes no later than another: below the threshold by the estimate first; then the older, then the lower slot. -/
def QueueHead.first (low : Bool) (a b : QueueHead) : Bool :=
  (low && decide (a.estimate < b.estimate)) || ((!low || a.estimate == b.estimate) &&
    (decide (a.since < b.since) || (a.since == b.since && decide (a.place.slot ≤ b.place.slot))))

/-- The die's budget headroom is below its threshold, which is U ÷ 8 unless firmware has set one (R408). -/
def Die.lowHeadroom (d : Die) : Bool :=
  let headroom : Int := (d.budgetUnits.toNat : Int) - d.charged
  d.threshold.elim (decide (8 * headroom < d.budgetUnits.toNat)) fun v => decide (headroom < v.toNat)

/-- The pick. -/
def State.pick (s : State) (die core : Nat) : Option Place :=
  let heads := s.queueHeads die core
  (heads.find? fun a => heads.all (a.first (s.die die).lowHeadroom)).map (·.place)

/-- A diagonal instruction. -/
def Instr.isDiagonal : Instr → Bool
  | .dprod _ | .dcorr _ | .dapply _ => true
  | _ => false

/-- The running hart's instruction is a diagonal one, and its core's engine takes another hart's first (R170). -/
def State.behindPick (s : State) (i : Instr) : Bool := Instr.isDiagonal i && s.pick s.hart.place.die s.hart.place.core != some s.hart.place

/-- The hart that the engine picks runs its diagonal instruction. -/
def execDiagonalEnginePick (s : State) : Host.Outcome State Fault Refusal :=
  match s.arg with
  | .core die core =>
    match s.pick die core with
    | none => .next s
    | some p =>
      let s := s.turnTo p
      match fetchInstr s with
      | .ok (.dprod o) s => execDprod o s
      | .ok (.dcorr o) s => execDcorr o s
      | .ok (.dapply o) s => execDapply o s
      | _ => .next s
  | _ => .next s

/-! The ends of waits: the waiting instruction of the running hart runs again (R83, R89, R203, R206, R297). -/

/-- The instruction that the running hart waits at; none while it has fault records to write (R362), or stands at its forced stop
(R375). -/
def State.waitsAt (s : State) : Option Instr := if s.hart.faulting.isSome || s.atStop then none else s.hart.waiting

def execRawaitWake (s : State) : Host.Outcome State Fault Refusal :=
  match s.waitsAt with
  | some (.rawait o) => execRawait o s
  | _ => .next s

def execMissedPromise (s : State) : Host.Outcome State Fault Refusal :=
  match s.waitsAt with
  | some (.rawait o) => if o.fl.getLsbD 0 then execRawait o s else .next s
  | _ => .next s

def execBarwWake (s : State) : Host.Outcome State Fault Refusal :=
  match s.waitsAt with
  | some (.barw o) => execBarw o s
  | _ => .next s

/-- The engines have taken the hart's commands from its queue (R270). -/
def State.takeCmds (s : State) : State :=
  { s with cmds := s.cmds.map fun c => if c.place == s.hart.place then { c with taken := true } else c }

def execDrainDone (s : State) : Host.Outcome State Fault Refusal :=
  match s.waitsAt with
  | some (.drain o) => execDrain o s.takeCmds
  | _ => .next s.takeCmds

def execSleepuWake (s : State) : Host.Outcome State Fault Refusal :=
  match s.waitsAt with
  | some (.sleepu o) => execSleepu o s
  | _ => .next s

/-- A firmware event arrives for the running hart: a host doorbell, a dump request, or one that the model raises itself. -/
def execWfiWake (s : State) : Host.Outcome State Fault Refusal :=
  match s.waitsAt with
  | some .wfi => execWfi { s with hart := { s.hart with fwEvent := true } }
  | _ => .next s

def execStripClose (s : State) : Host.Outcome State Fault Refusal :=
  match s.waitsAt with
  | some (.setvl o) => execSetvl o s
  | some (.setvli o) => execSetvli o s
  | some (.setvty o) => execSetvty o s
  | _ => .next s

end Sys2Proof.Machine
end

