-- ==== Sys2Proof/Machine/Grids.lean ====
section
/-!
DEFINITION. Hashed grids: descriptors, cells, weights and corners, and the instructions of OPC 0xC1 (20:R341 to R356).
-/

namespace Sys2Proof.Machine

/-- A grid's header (R341). -/
structure Grid where
  at_ : Word
  dims : Nat
  levels : Nat
  lf : Nat
  ffmt : Nat
  tbase : Word
  gbase : Word
  deriving DecidableEq, Repr

def gridOf (a : Word) (v : Nat) : Grid :=
  { at_ := a, dims := bitsAt v 0 4, levels := bitsAt v 8 5, lf := bitsAt v 16 2, ffmt := bitsAt v 18 2,
    tbase := word (bitsAt v 64 64), gbase := word (bitsAt v 128 64) }

/-- Features of an entry, bytes of a feature and of an entry (R343). -/
def Grid.features (g : Grid) : Nat := 2 ^ g.lf
def Grid.featureBytes (g : Grid) : Nat := if g.ffmt = 2 then 4 else 2
def Grid.entryBytes (g : Grid) : Nat := g.features * g.featureBytes

/-- A level's record (R342). -/
structure Level where
  number : Nat
  res : Nat
  base : Nat
  log2 : Nat
  hashed : Bool
  deriving DecidableEq, Repr

def levelOf (n v : Nat) : Level :=
  { number := n, res := bitsAt v 0 32, base := bitsAt v 32 32, log2 := bitsAt v 64 6, hashed := v.testBit 72 }

/-- Raise grid descriptor (R344). -/
def gridFault {α : Type} (addr : Word) (level code : Nat) : Op α := trap .gridDescriptor addr (word (level * 256 + code))

/-- The header checks 0x01, 0x02, 0x03 and 0x06, in that order: the code of the first that fails (R344). -/
def Grid.headerFault (g : Grid) (v : Nat) (needsGrad inRange : Bool) : Option Nat :=
  if g.dims = 0 || 8 < g.dims || g.levels = 0 || 16 < g.levels || g.ffmt == 3 || bitsAt v 4 4 != 0 || bitsAt v 13 3 != 0 ||
    bitsAt v 20 44 != 0 || bitsAt v 192 320 != 0 then some 1
  else if g.tbase = 0 || g.tbase.toNat % g.entryBytes != 0 then some 2
  else if needsGrad && (g.gbase == 0 || g.gbase.toNat % 4 != 0) then some 3
  else if !inRange then some 6
  else none

/-- The checks 0x04 and 0x05 of a used level (R344). -/
def Grid.levelFault (g : Grid) (l : Level) (v : Nat) : Option Nat :=
  if l.res = 0 || 2 ^ 24 < l.res || 28 < l.log2 || bitsAt v 70 2 != 0 || bitsAt v 73 55 != 0 ||
    decide (2 ^ 56 < g.tbase.toNat + (l.base + 2 ^ l.log2) * g.entryBytes) then some 4
  else if !l.hashed && decide (2 ^ l.log2 < (l.res + 1) ^ g.dims) then some 5
  else none

/-! Cells, weights and corners (R345 to R347). -/

/-- A coordinate as every level uses it, and the flags of its clamp (R345). -/
def clampCoord (bits : Nat) : Val × Flags :=
  let v := fp32.value bits
  if v.isNan then (.zero, Flags.nv)
  else if v.isZero then (.zero, 0)
  else if v.lt .zero then (.zero, Flags.sat)
  else if (Val.ofInt 1).lt v then (.ofInt 1, Flags.sat)
  else (v, 0)

/-- Round an exact value to FP32 by RNE. -/
def toFp32 (v : Val) : Val × Flags :=
  let (bits, fl) := fp32.round { mode := .rne } false v
  (fp32.value bits, fl)

/-- The integer part of a value that is not negative. -/
def floorVal : Val → Nat
  | .fin _ m e => if e < 0 then m / 2 ^ (-e).toNat else m * 2 ^ e.toNat
  | _ => 0

/-- One dimension of a cell: c, w, RNE(1 − w), and the flags of each (R346). -/
structure Axis where
  c : Nat
  w : Val
  wFlags : Flags
  t0 : Val
  t0Flags : Flags
  deriving DecidableEq, Repr

def axisOf (n : Nat) (x : Val) : Axis :=
  let (s, f) := toFp32 (x.mul (.ofInt n)).1
  let c := min (floorVal s) (n - 1)
  let w := (s.add .rne (Val.ofInt c).negate).1
  let (t, f') := toFp32 ((Val.ofInt 1).add .rne w.negate).1
  { c, w, wFlags := f, t0 := t, t0Flags := f' }

/-- The weight of corner `b` (R346). -/
def weightOf (axes : List Axis) (b : Nat) : Val × Flags :=
  let t (i : Nat) (a : Axis) : Val × Flags := if b.testBit i then (a.w, a.wFlags) else (a.t0, a.wFlags ||| a.t0Flags)
  match axes.zipIdx.map fun p => t p.2 p.1 with
  | [] => (.ofInt 1, 0)
  | first :: rest => rest.foldl (fun acc p =>
      let (v, fl) := toFp32 (acc.1.mul p.1).1
      (v, acc.2 ||| p.2 ||| fl)) first

/-- The constants of R347. -/
def hashPrime : List Nat := [1, 0x8DA6B343, 0xD8163841, 0xCB1AB31F, 0x7C1D9E57, 0xA3B1956B, 0xE4F3C2B9, 0x94D049BB]

/-- The entry index of corner `b` (R347). -/
def Level.entryIndex (l : Level) (axes : List Axis) (b : Nat) : Nat :=
  let u := axes.zipIdx.map fun p => p.1.c + if b.testBit p.2 then 1 else 0
  l.base + if l.hashed then (u.zip hashPrime).foldl (fun h p => Nat.xor h (p.1 * p.2 % 2 ^ 32)) 0 % 2 ^ l.log2
    else (u.zipIdx.foldl (fun k p => k + p.1 * (l.res + 1) ^ p.2) 0)

/-- A corner of a point: its level, its place among the levels used, its entry, weight and flags. -/
structure Corner where
  j : Nat
  entry : Nat
  weight : Val
  flags : Flags
  deriving DecidableEq, Repr

/-- The corners `lo` to `lo + n - 1` of a point at a level. -/
def cornersAt (l : Level) (j : Nat) (coords : List (Val × Flags)) (lo n : Nat) : List Corner :=
  let axes := coords.map fun p => axisOf l.res p.1
  let clamp := coords.foldl (fun f p => f ||| p.2) (0 : Flags)
  (List.range n).map fun k =>
    let (w, fl) := weightOf axes (lo + k)
    { j, entry := l.entryIndex axes (lo + k), weight := w, flags := clamp ||| fl }

/-- Every corner of a point at the levels used, level by level in ascending corner code. -/
def cornersOf (g : Grid) (levels : List Level) (coords : List (Val × Flags)) : List Corner :=
  (levels.zipIdx.map fun p => cornersAt p.1 p.2 coords 0 (2 ^ g.dims)).flatten

/-! The descriptor and the operands. -/

/-- Read the header, check it, and check the operand groups once they are known (R344, R349). -/
def gridHeader (b : Reg) (needsGrad : Bool) (inRange : Grid → Bool) (dests srcs : Grid → List Opd) : Op Grid := do
  auReads [b]
  let s ← get
  illegalIf (s.cfg.fmt != 0x0A)
  let a := s.x b
  let v ← loadAt (.plain a) 0 64
  let g := gridOf a v
  match g.headerFault v needsGrad (inRange g) with
  | some k => gridFault a 0 k
  | none => pure ()
  let ds := dests g
  let ss := srcs g
  let apart := ds.all (fun d => ss.all d.disjoint) && (ds.zipIdx.all fun p => ds.zipIdx.all fun p' => p.2 == p'.2 || p.1.disjoint p'.1)
  illegalIf (!((ds ++ ss).all (·.ok s.hart.task.vregs)) || !apart)
  trapIf (s.hart.misusesStream 32 ds ss) .streamMisuse 0 2
  pure g

/-- The records of the levels used, read and checked in ascending order (R344). -/
def gridLevels (g : Grid) : Nat → Nat → Op (List Level)
  | _, 0 => pure []
  | l, n + 1 => do
    let v ← loadAt (.plain g.at_) ((0x40 + 16 * l : Nat) : Int) 16
    let r := levelOf l v
    match g.levelFault r v with
    | some k => gridFault g.at_ l k
    | none => pure ()
    let rest ← gridLevels g (l + 1) n
    pure (r :: rest)

/-- The groups of `n` consecutive operands from register `r`. -/
def groupsFrom (r : Reg) (g n : Nat) : List Opd := (List.range n).map fun k => { r := r.toNat + k * g, g }

/-- The clamped coordinates of a point. -/
def State.coords (s : State) (c : Cfg) (a : Reg) (dims e : Nat) : List (Val × Flags) :=
  (List.range dims).map fun i => clampCoord (elemAt 32 (s.hart.own.group (a.toNat + i * c.g) c.g) e)

/-- A table word that a point touches: its address, what stands there. -/
structure Touched where
  va : Word
  loc : Located
  deriving DecidableEq, Repr

/-- Locate an entry or a gradient word. One on a page of another class than 10 raises 0x07, and so does an entry in a window, which is on
no page of class 10 (R344; DEDUCED: notes/assumptions/34.md). -/
def State.locateGrid (s : State) (q : Req) (level : Nat) (va : Word) : Except Trap Touched :=
  let seven : Trap := { cause := .gridDescriptor, addr := va, info := word (level * 256 + 7) }
  if regionOf q.place.die va != .paged then .error seven
  else
    match s.translate q va with
    | .hit x =>
      if Entry.cls x.entry != 2 then .error seven
      else
        match s.locateFor q va with
        | .ok l => .ok { va, loc := l }
        | .error t => .error t
    | .absent bad => .ok { va, loc := .absent bad }
    | .poisoned => .error { cause := .poisonedData, addr := va }

/-- The pre-checks of R147 on the words of the points, kind by kind: each word with its level (R208, R215, R344). -/
def gridPrecheck (q : Req) (l : List (Nat × Word)) : Op Unit := do
  let raise (c : Cause) (p : Word → Bool) : Op Unit :=
    match l.find? fun w => p w.2 with
    | some w => trap c w.2
    | none => pure ()
  raise .protection fun va => decide (2 ^ 56 ≤ va.toNat) || regionOf q.place.die va == .unassigned
  raise .weightStoreWrite fun va => q.write && match regionOf q.place.die va with | .weights _ _ => true | _ => false

/-- The points' words, checked and located. -/
def gridTouch (q : Req) (words : List (List (Nat × Word))) : Op (List (List Touched)) := do
  gridPrecheck q words.flatten
  words.mapM fun l => l.mapM fun w => do check ((← get).locateGrid q w.1 w.2)

def Touched.isAbsent (t : Touched) : Bool :=
  match t.loc with
  | .absent _ => true
  | _ => false

/-- The pages that a point misses, the lowest address of each. -/
def missesOf (l : List Touched) : List Missing :=
  (missingPages (l.filterMap fun t => match t.loc with
    | .absent bad => some ({ va := t.va, bad } : Missing)
    | _ => none)).map fun p => { va := p.1, bad := p.2.1 }

/-- A point with its corners and the words that it touches. -/
structure Point where
  e : Nat
  corners : List Corner
  touched : List Touched
  deriving DecidableEq, Repr

/-- The targets of a point's words that are present. -/
def Point.targets (p : Point) : List Target := p.touched.filterMap fun t => match t.loc with | .at_ tg => some tg | _ => none

/-- Perform a point as a unit (R351): `act` answers the results in its element; under DET the completed set is a prefix. -/
def performPoint (q : Req) (det reads : Bool) (n : Nat) (act : Point → Op (List Nat × Flags))
    (acc : Performed × List (Nat × List Nat) × Flags) (p : Point) : Op (Performed × List (Nat × List Nat) × Flags) := do
  let (r, out, fl) := acc
  modify fun s => p.targets.foldl (fun s t => s.touch q t) s
  let s ← get
  let missing := (missesOf p.touched).map fun m => (p.e, m)
  let poisoned := if reads then p.touched.filterMap fun t => match t.loc with
    | .at_ tg => if s.poisonAt q tg n then some (p.e, t.va) else none
    | _ => none else []
  if !missing.isEmpty then pure ({ r with missing := r.missing ++ missing }, out, fl)
  else if !poisoned.isEmpty then pure ({ r with poisoned := r.poisoned ++ poisoned }, out, fl)
  else if det && r.stopped then pure acc
  else do
    let (vals, f) ← act p
    pure ({ r with done := r.done ++ [(p.e, 0)] }, out ++ [(p.e, vals)], fl ||| f)

/-- The points that perform before a stop: under DET the lowest. -/
def pointsBefore (stop : StopAfter) (det : Bool) (all : List Point) : List Point :=
  stop.elim all fun now => if det then all.takeWhile fun p => now.contains p.e else all.filter fun p => now.contains p.e

/-- Run the points and stop part-way if one cannot perform (R351). -/
def runPoints (q : Req) (all : List Point) (reads : Bool) (n : Nat) (act : Point → Op (List Nat × Flags))
    (commit : List (Nat × List Nat) → Op Unit) (stop : StopAfter := none) : Op Unit := do
  let s ← get
  let points := pointsBefore stop s.hart.det all
  let absent := points.flatMap fun p => missesOf p.touched
  if !absent.isEmpty && s.mustWait s.hart.place.die (missingPages absent).length then wait
  else do
    let (r, out, fl) ← points.foldlM (performPoint q s.hart.det reads n act) ({}, [], 0)
    commit out
    orFlags fl
    if r.stopped then stopPartWay q r else standAt stop (all.map (·.e)) (r.done.map (·.1))

/-- Address of a feature and of its gradient word (R343). -/
def Grid.entryAddr (g : Grid) (k : Nat) : Word := g.tbase + word (k * g.entryBytes)
def Grid.gradAddr (g : Grid) (k f : Nat) : Word := g.gbase + word (4 * (k * g.features + f))

/-- The interpolated features of a point at one level (R350). -/
def interpolate (g : Grid) (corners : List (Corner × Nat)) : List (Nat × Flags) :=
  let code := if g.ffmt = 0 then 0x08 else if g.ffmt = 1 then 0x09 else 0x0A
  (List.range g.features).map fun f =>
    corners.foldl (fun acc p =>
      let v := (fpOf code).value (bitsAt p.2 (8 * g.featureBytes * f) (8 * g.featureBytes))
      let (y, f1) := p.1.weight.fma .rne v (fp32.value acc.1)
      let (bits, f2) := fp32.round { mode := .rne } false y
      (bits, acc.2 ||| f1 ||| f2)) (0, 0)

def firstLevel (o : GOp) : Nat := o.imm.toNat % 16
def levelCount (o : GOp) : Nat := o.imm.toNat / 16 % 16 + 1

/-- HGLOAD (R350, R351). -/
def gridLoad (o : GOp) (s : State) (stop : StopAfter := none) : Host.Outcome State Fault Refusal :=
  let l0 := firstLevel o
  let n := levelCount o
  finishNext (.hgload o) (do
    let c := (← get).cfg
    let srcs (g : Grid) := groupsFrom o.a c.g g.dims
    let g ← gridHeader o.b false (fun g => decide (l0 + n ≤ g.levels)) (fun g => groupsFrom o.d c.g (n * g.features)) srcs
    let levels ← gridLevels g l0 n
    withStreams c.vl (srcs g) (do
      let s ← get
      let q := s.hart.req
      let active := (List.range c.vl).filter (s.hart.pending o.msk.toNat)
      let corners (e : Nat) := cornersOf g levels (s.coords c o.a g.dims e)
      let touched ← gridTouch q (active.map fun e => (corners e).map fun k => (l0 + k.j, g.entryAddr k.entry))
      let points := (active.zip touched).map fun p => ({ e := p.1, corners := corners p.1, touched := p.2 } : Point)
      runPoints q points true g.entryBytes (fun p => do
        let data ← p.touched.mapM fun t => match t.loc with
          | .at_ tg => readTarget q tg g.entryBytes false
          | _ => pure 0
        let pairs := p.corners.zip data
        let vals := (List.range n).flatMap fun j => interpolate g (pairs.filter fun p => p.1.j == j)
        pure (vals.map (·.1), p.corners.foldl (fun f k => f ||| k.flags) (vals.foldl (fun f v => f ||| v.2) 0))) (stop := stop) (fun out =>
          modHart fun h => { h with own := (List.range (n * g.features)).foldl (fun own r =>
            let at_ := o.d.toNat + r * c.g
            own.setGroup at_ c.g (out.foldl (fun v p => putBits v (32 * p.1) 32 (p.2.getD r 0)) (own.group at_ c.g))) h.own })
      (List.range (n * g.features)).forM fun r =>
        settleDest c false (o.d.toNat + r * c.g) o.msk.toNat (o.mz == 1))) s

def execHgload (o : GOp) (s : State) := gridLoad o s

/-- One contribution of an adjoint: its gradient word and its value (R352). -/
structure Contribution where
  wordIndex : Nat
  value : Nat
  flags : Flags
  deriving DecidableEq, Repr

/-- The contributions of a point in their order; `grad r` is gradient r. A zero contribution is +0 (R352). -/
def contributions (g : Grid) (corners : List Corner) (grad : Nat → Nat) : List Contribution :=
  corners.flatMap fun k => (List.range g.features).map fun f =>
    let (y, f1) := k.weight.mul (fp32.value (grad (k.j * g.features + f)))
    let (bits, f2) := fp32.round { mode := .rne } false y
    { wordIndex := k.entry * g.features + f, value := if bits = 0x80000000 then 0 else bits, flags := k.flags ||| f1 ||| f2 }

/-- The checks of the binned form (R344 code 0x08, R354). -/
def binnedSet (o : GOp) (g : Grid) (levels : List Level) : Op BinSet := do
  let b ← activeSet ((← get).x o.d)
  let s ← get
  if !(b.hasTile s.hart) then illegal 3
  if b.int32 || b.tbase != g.gbase || levels.any fun l => decide (b.tlen < (l.base + 2 ^ l.log2) * g.features) then
    gridFault g.at_ 0 8
  pure b

/-- HGGRAD (R352 to R354). -/
def gridAdjoint (o : GOp) (s : State) (stop : StopAfter := none) : Host.Outcome State Fault Refusal :=
  let l0 := firstLevel o
  let n := levelCount o
  let binned := o.fl.getLsbD 0
  finishNext (.hggrad o) (do
    auReads (if binned then [o.d] else [])
    let c := (← get).cfg
    let srcs (g : Grid) := groupsFrom o.a c.g g.dims ++ groupsFrom o.c c.g (n * g.features)
    let g ← gridHeader o.b true (fun g => decide (l0 + n ≤ g.levels)) (fun _ => []) srcs
    let levels ← gridLevels g l0 n
    withStreams c.vl (srcs g) (do
      let s ← get
      let corners (e : Nat) := cornersOf g levels (s.coords c o.a g.dims e)
      let grad (e r : Nat) := elemAt 32 (s.hart.own.group (o.c.toNat + r * c.g) c.g) e
      let of (e : Nat) := contributions g (corners e) (grad e)
      if binned then do
        let b ← binnedSet o g levels
        let all := ((List.range c.vl).filter (s.hart.selected o.msk.toNat)).flatMap of
        appendEntries b (all.zipIdx.map fun p => (p.2, p.1.wordIndex, BitVec.ofNat 32 p.1.value))
        orFlags (all.foldl (fun f p => f ||| p.flags) 0)
      else do
        let q := s.hart.req (write := true) (atomic := true)
        let addr (p : Contribution) : Word := g.gbase + word (4 * p.wordIndex)
        let active := (List.range c.vl).filter (s.hart.pending o.msk.toNat)
        let touched ← gridTouch q (active.map fun e => (corners e).flatMap fun k =>
          (List.range g.features).map fun f => (l0 + k.j, g.gradAddr k.entry f))
        let points := (active.zip touched).map fun p => ({ e := p.1, corners := corners p.1, touched := p.2 } : Point)
        refuseDet 0xC1 0x01 ((active.head?.bind fun e => (of e).head?.map addr).getD g.gbase)
        runPoints q points false 4 (fun p => do
          let l := of p.e
          (l.zip p.touched).forM fun (k, t) => do
            match t.loc with
            | .at_ tg =>
              settleTarget q tg 4
              if (← get).poisonIn q.place tg.pa tg.pa 4 then pure ()
              else do
                let _ ← atomicAt q tg 4 fun v => Amo.apply .fadd 32 v 0 k.value
                pure ()
            | _ => pure ()
          pure ([], l.foldl (fun f k => f ||| k.flags) 0)) (fun _ => pure ()) stop)) s

def execHggrad (o : GOp) (s : State) := gridAdjoint o s

/-- HGCELL (R355). -/
def execHgcell (o : GOp) (s : State) : Host.Outcome State Fault Refusal :=
  let level := firstLevel o
  let cb0 := o.imm.toNat / 16 % 256
  let nc := o.imm.toNat / 4096 % 16 + 1
  finishNext (.hgcell o) (do
    let c := (← get).cfg
    let srcs (g : Grid) := groupsFrom o.a c.g g.dims
    let g ← gridHeader o.b false (fun g => decide (level < g.levels) && decide (cb0 + nc ≤ 2 ^ g.dims))
      (fun _ => groupsFrom o.d c.g nc ++ groupsFrom o.c c.g nc) srcs
    let levels ← gridLevels g level 1
    withStreams c.vl (srcs g) (do
      let s ← get
      let l := levels.headD { number := level, res := 1, base := 0, log2 := 0, hashed := false }
      let corners := (List.range c.vl).map fun e => cornersAt l 0 (s.coords c o.a g.dims e) cb0 nc
      let corner (e m : Nat) : Corner := (corners.getD e []).getD m { j := 0, entry := 0, weight := .zero, flags := 0 }
      (List.range nc).forM fun m => do
        let put (r : Nat) (f : Nat → Nat) : Op Unit := do
          let own := (← get).hart.own
          let v := mapElems c 32 c.vlmax (s.hart.selected o.msk.toNat) (o.mz == 1) (own.group r c.g) fun e =>
            (f e, (corner e m).flags)
          modHart fun h => { h with own := h.own.setGroup r c.g v.1 }
          orFlags v.2
        put (o.d.toNat + m * c.g) fun e => (corner e m).entry
        put (o.c.toNat + m * c.g) fun e => (fp32.round { mode := .rne } false (corner e m).weight).1)) s

end Sys2Proof.Machine
end

