-- ==== Sys2Proof/Machine/Retired.lean ====
section
/-!
DEFINITION. The ladder of retired instructions, OPC 0xE0 (01:R19; 02:R43; 24:R404, R405).
-/

namespace Sys2Proof.Machine

/-- Add one to a 16-bit field of RETUSE, saturating (R19). -/
def countUse (lo : Nat) (v : Word) : Word := word (putBits v.toNat lo 16 (min 65535 (bitsAt v.toNat lo 16 + 1)))

def countRetired (lo : Nat) : Op Unit := modCsr fun c => { c with retuse := countUse lo c.retuse }

/-- VSEGLD: COPYSEG over unit-stride records from x[A] + OFS, active elements only (R404). -/
def execVsegld (o : MOp) (s : State) : Host.Outcome State Fault Refusal :=
  finishNext (.vsegld o) (do
    auReads [o.a]
    let s ← get
    let c := s.cfg
    let fields := o.aux.toNat % 8 + 1
    let dest := o.d.toNat
    let vregs := min 64 s.hart.task.vregs
    illegalIf (fields < 2 || !(isDefined c.fmt && 8 ≤ c.w && c.g == 1) || decide (vregs < dest + fields) ||
      (List.range fields).any fun f => (s.hart.stream (dest + f)).isSome)
    let b : Base := .plain (s.x o.a)
    wholly (deinterleave s.hart.req b c fields dest c.vl id (fun r => o.ofs.toInt + ((r * fields * c.bytes : Nat) : Int))
      (s.hart.selected o.msk.toNat) (o.mz == 1))
    countRetired 0) s

/-- DFAN always traps (R405); firmware emulates it, in Machine/Firmware.lean. -/
def execDfan (s : State) : Host.Outcome State Fault Refusal :=
  finishNext .dfan (do
    countRetired 16
    trap .retiredInstruction 0 0xE001) s

/-- A well-formed VLD1K is counted and is illegal (R43). -/
def execVld1k (s : State) : Host.Outcome State Fault Refusal :=
  finishNext .vld1k (do
    countRetired 32
    illegal) s

end Sys2Proof.Machine
end

