-- ==== Sys2Proof/Machine/Whisk.lean ====
section
/-!
DEFINITION. The Whisk and VLDR (17:R305 to R310).
-/

namespace Sys2Proof.Machine

/-- π in units of 2^−192. -/
def piFixed : Nat := 0x3243f6a8885a308d313198a2e03707344a4093822299f31d0

/-- Terms of the sine series at x, in units of 2^−192, from the term `t` of degree 2n − 1 on. -/
def sinSeries (x : Nat) : Nat → Nat → Nat → Int
  | 0, _, _ => 0
  | fuel + 1, n, t => (t : Int) - sinSeries x fuel (n + 1) (t * x / 2 ^ 192 * x / 2 ^ 192 / (2 * n * (2 * n + 1)))

/-- T[k] = round(sin(πk ÷ 8192) × 2^31) (R305). -/
def whiskTable (k : Nat) : Nat :=
  let x := piFixed * k / 8192
  let s := sinSeries x 40 1 x
  ((s + 2 ^ 160) / 2 ^ 161).toNat

/-- S(v) for 0 ≤ v ≤ 2^30 (R305). -/
def whiskSine (v : Nat) : Int :=
  if v = 2 ^ 30 then whiskTable 4096
  else
    let k := v / 2 ^ 18
    let t : Int := ((v % 2 ^ 18 : Nat) : Int)
    (whiskTable k : Int) + (((whiskTable (k + 1) : Int) - whiskTable k) * t + 2 ^ 17) / 2 ^ 18

/-- A sine or cosine as an FP32 value (R305). -/
def whiskValue (i : Int) : Val := fp32.value (fp32.round { mode := .rne } false ((Val.ofInt i).scale (-31))).1

/-- The sine and the cosine of a position and a frequency (R305). -/
def whiskAngle (pos : Word) (f : Nat) : Val × Val :=
  let phi := pos.toNat * f % 2 ^ 32
  let a := whiskSine (phi % 2 ^ 30)
  let b := whiskSine (2 ^ 30 - phi % 2 ^ 30)
  let (si, ci) := match phi / 2 ^ 30 with
    | 0 => (a, b)
    | 1 => (b, -a)
    | 2 => (-a, -b)
    | _ => (-b, a)
  (whiskValue si, whiskValue ci)

/-- x × y + z × w with one rounding (R306). -/
def whiskSum (fmt : Nat) (x y z w : Val) : Nat × Flags :=
  let (p, f1) := x.mul y
  let (r, f2) := z.mul w
  let (v, f3) := p.add .rne r
  let (bits, f4) := (fpOf fmt).round { mode := .rne } false v
  (bits, f1 ||| f2 ||| f3 ||| f4)

/-- The rotated pair (R306). -/
def rotate (fmt : Nat) (x y : Val) (s c : Val) : Nat × Nat × Flags :=
  let (a, f1) := whiskSum fmt x c y.negate s
  let (b, f2) := whiskSum fmt x s y c
  (a, b, f1 ||| f2)

/-- A rotary descriptor's header (R307). -/
structure Rotary where
  rd : Nat
  split : Bool
  npair : Nat
  deriving DecidableEq, Repr

def rotaryOf (v : Nat) : Rotary := { rd := bitsAt v 0 16, split := v.testBit 16, npair := bitsAt v 32 16 }

def Rotary.ok (r : Rotary) (v : Nat) : Bool :=
  bitsAt v 17 15 == 0 && bitsAt v 48 464 == 0 && 1 ≤ r.npair && r.npair ≤ 1024 && 2 ≤ r.rd && r.rd ≤ 8192 && 2 * r.npair ≤ r.rd

/-- The elements of pair `j` of row `r`. -/
def Rotary.pair (d : Rotary) (r j : Nat) : Nat × Nat :=
  if d.split then (r * d.rd + j, r * d.rd + j + d.npair) else (r * d.rd + 2 * j, r * d.rd + 2 * j + 1)

/-- The pair that element `e` lies in: its first and second element and the pair's number. -/
def Rotary.pairOf (d : Rotary) (e : Nat) : Option (Nat × Nat × Nat) :=
  let r := e / d.rd
  let k := e % d.rd
  if d.split then
    if k < 2 * d.npair then let j := k % d.npair; some ((d.pair r j).1, (d.pair r j).2, j) else none
  else if k < 2 * d.npair then let j := k / 2; some ((d.pair r j).1, (d.pair r j).2, j) else none

/-- What performs as one: a pair of elements, or a single element (R310). -/
structure Unit_ where
  elems : List Placed
  /-- The pair's number and its row, if it is a pair. -/
  pair : Option (Nat × Nat)
  deriving DecidableEq, Repr

/-- The units of the placed elements, by their first element. -/
def unitsOf (d : Rotary) (l : List Placed) : List Unit_ :=
  l.filterMap fun p =>
    match d.pairOf p.idx with
    | none => some { elems := [p], pair := none }
    | some (e1, e2, j) =>
      if p.idx = e1 then
        (l.find? (·.idx == e2)).map fun p2 => { elems := [p, p2], pair := some (j, e1 / d.rd) }
      else none

/-- What stops the elements of a unit: with the first that cannot perform, the unit's first element cannot either (R147, R310). -/
def stopsOf {α : Type} (u : Unit_) (bad : List (Nat × α)) (first : Option Nat) : List (Nat × α) :=
  bad.map fun p => (if some p.1 = first then (u.elems.head?.map (·.idx)).getD p.1 else p.1, p.2)

/-- Perform one unit: both elements of a pair or neither. -/
def performUnit (q : Req) (c : Cfg) (ro det : Bool) (freqs : List Nat) (pos : Word) (acc : Performed × Flags) (u : Unit_) :
    Op (Performed × Flags) := do
  let r := acc.1
  modify fun s => (targetsOf u.elems).foldl (fun s t => s.touch q t) s
  let s ← get
  let missing := u.elems.filterMap fun p => match p.loc with
    | .absent bad => some (p.idx, ({ va := p.va, bad } : Missing))
    | _ => none
  let poisoned := u.elems.filterMap fun p => match p.loc with
    | .at_ t => if s.poisonedRead q t c.bytes ro then some (p.idx, p.va) else none
    | _ => none
  if !missing.isEmpty || !poisoned.isEmpty then
    let first := lowestIdx (missing.map (·.1) ++ poisoned.map (·.1))
    pure ({ r with missing := r.missing ++ stopsOf u missing first, poisoned := r.poisoned ++ stopsOf u poisoned first }, acc.2)
  else if det && r.stopped then pure acc
  else do
    let vals ← u.elems.mapM fun p => match p.loc with
      | .at_ t => do return (p.idx, ← readTarget q t c.bytes ro)
      | _ => pure (p.idx, 0)
    match u.pair, vals with
    | some (j, row), [(e1, x), (e2, y)] =>
      let (sn, cs) := whiskAngle (pos + word row) (freqs.getD j 0)
      let (a, b, fl) := rotate c.fmt ((fpOf c.fmt).value x) ((fpOf c.fmt).value y) sn cs
      pure ({ r with done := r.done ++ [(e1, a), (e2, b)] }, acc.2 ||| fl)
    | _, _ => pure ({ r with done := r.done ++ vals }, acc.2)

/-- VLDR (R308 to R310). -/
def rotaryLoad (o : MOp) (s : State) (stop : StopAfter := none) : Host.Outcome State Fault Refusal :=
  finishNext (.vldr o) (do
    auReads (o.b :: o.c :: baseReads o.h o.a)
    vectorOp (fun c => c.fmt == 0x08 || c.fmt == 0x09 || c.fmt == 0x0A) (fun c => [Opd.of o.d c.g]) (fun _ => []) fun c => do
      let s ← get
      let ro := o.ro == 1
      let header ← wholly (loadAt (.plain (s.x o.b)) 0 64 ro)
      let d := rotaryOf header
      if !(d.ok header) then illegal 1
      let freqs ← wholly ((List.range d.npair).mapM fun j => loadAt (.plain (s.x o.b)) ((0x40 + 4 * j : Nat) : Int) 4 ro)
      if c.vl % d.rd != 0 then illegal 2
      let msk := o.msk.toNat
      let half (r j : Nat) : Bool := s.hart.pending msk (d.pair r j).1 != s.hart.pending msk (d.pair r j).2
      if (List.range (c.vl / d.rd)).any fun r => (List.range d.npair).any fun j => half r j then illegal 3
      let s ← get
      let b := s.baseOf o.h o.a
      let q := s.hart.req (covered := b.covered)
      let elems := ((List.range c.vl).filter (s.hart.pending msk)).map fun e =>
        { idx := e, off := o.ofs.toInt + ((e * c.w / 8 : Nat) : Int) : Elem }
      let all ← check (s.precheck q b c.bytes elems)
      let placed ← beforeStop q c.bytes stop all
      let split (u : Unit_) : Bool := u.elems.any fun p => !placed.contains p
      if (unitsOf d all).any fun u => u.elems.any placed.contains && split u then wait
      holdFor q (targetsOf placed) c.bytes
      let absent := placed.filterMap fun p => match p.loc with | .absent bad => some { va := p.va, bad : Missing } | _ => none
      if !absent.isEmpty && s.mustWait s.hart.place.die (missingPages absent).length then wait
      else do
        let (r, fl) ← (unitsOf d placed).foldlM (performUnit q c ro s.hart.det freqs (s.x o.c)) ({}, 0)
        putDone false o.d.toNat c.g c.w r.done
        orFlags fl
        if r.stopped then stopPartWay q r
        standAt stop (all.map (·.idx)) (r.done.map (·.1))
        settleDest c false o.d.toNat msk (o.mz == 1)
        acquireIf o.ord o.scope) s

def execVldr (o : MOp) (s : State) := rotaryLoad o s

end Sys2Proof.Machine
end

