-- ==== Sys2Proof/Machine/Firmware.lean ====
section
/-!
DEFINITION. What resident firmware and the device's supervision do to harts and registers: service, reflection and kills of
traps, pre-emption, forced stops, core-state errors, device registers, boot, migration, monitors and power
(00:R5; 21:R365 to R367; 22:R371, R375 to R381; 23:R386, R387, R394, R397; 24:R405 to R408).
-/

namespace Sys2Proof.Machine

/-! Firmware's accesses in a task's context. -/

/-- Whether firmware reaches every byte. -/
inductive Reach (α : Type) where
  | ok (a : α)
  /-- A page is not resident: firmware maps it first. -/
  | absent
  | refused

/-- The request of the running hart's task. -/
def Hart.taskReq (h : Hart) (write : Bool) : Req := { place := h.place, asid := h.asid, write }

/-- The targets of `n` bytes from `va` on, in pieces of `k` bytes that divide `n`. -/
def State.reach (s : State) (q : Req) (va : Word) (k : Nat) : Nat → Reach (List Target)
  | 0 => .ok []
  | n + 1 =>
    match s.locate q va with
    | .error _ => .refused
    | .ok (.absent _) => .absent
    | .ok (.at_ t) =>
      match s.reach q (va + word k) k n with
      | .ok l => .ok (t :: l)
      | r => r

/-- Pieces of a range: doublewords where it is aligned to them, else bytes. -/
def pieceSize (va : Word) : Nat := if va.toNat % 8 = 0 then 8 else 1

/-- Firmware's plain stores of a 64-byte frame in the context. -/
def State.putFrame (s : State) (h : Hart) (va : Word) (bytes : List Byte) : Reach State :=
  let k := pieceSize va
  match s.reach (h.taskReq true) va k (64 / k) with
  | .ok l => .ok (l.zipIdx.foldl (fun s p => s.writeTarget (h.taskReq true) p.1 ((bytes.drop (k * p.2)).take k)) s)
  | .absent => .absent
  | .refused => .refused

/-- A 64-byte frame as firmware reads it; poison counts as unreadable. -/
def State.getFrame (s : State) (h : Hart) (va : Word) : Reach (State × Nat) :=
  let q := h.taskReq false
  match s.reach q va 1 64 with
  | .ok l =>
    let s := l.foldl (fun s t => s.touch q t) s
    if l.any fun t => s.poisonAt q t 1 then .refused
    else .ok (s, ofBytes (l.map fun t => BitVec.ofNat 8 (s.readAt q t 1)))
  | .absent => .absent
  | .refused => .refused

/-! Serving a trap (R365). -/

/-- The running hart at task privilege, as its context's fetches are made. -/
def State.asTask (s : State) : State := { s with hart := { s.hart with firmware := false } }

def State.killTask (s : State) : State := s.failTask s.hart.place

/-- Firmware resumes the task at a PC; a slot with TGT clear kills it, unless the trap had SEQF = 1 (R365). -/
def State.serveReturn (s : State) : State :=
  let c := s.hart.csr
  if !isPc c.epc || (!c.ecause.getLsbD 11 && s.asTask.refusesTarget c.epc) then s.killTask
  else { s with hart := { s.hart.returned with arrived := s.cycle } }

/-- The frame of a reflected trap (R366). -/
def Hart.frame (h : Hart) : List Byte :=
  dwords [h.csr.epc, h.csr.ecause, h.csr.eaddr, h.csr.einfo, h.getX 2, h.getX 4, 0, 0]

/-- The hart continues at task privilege at a PC, with no part of an instruction done. -/
def State.resumeAt (s : State) (h : Hart) (pc : Word) : State :=
  { s with hart := { h with
      csr := { h.csr with elx := 0 }, firmware := false, pc, sequential := false, arrived := s.cycle, waiting := none } }

/-- Reflect the trap to TVEC, or kill the task (R365, R366). -/
def State.reflect (s : State) : State :=
  let h := s.hart
  let f := h.getX 2 - 64
  if h.csr.tvec = 0 || h.csr.ecause.getLsbD 8 then s.killTask
  else if !isPc h.csr.tvec || s.asTask.refusesTarget h.csr.tvec then s.killTask
  else
    match s.putFrame h f h.frame with
    | .absent => s
    | .refused => s.killTask
    | .ok s =>
      (s.resumeAt ((h.setX 2 f).setX 4 f) h.csr.tvec)

/-- `ecall 1`: the return from a reflected trap (R367). -/
def State.reflectedReturn (s : State) : State :=
  let h := s.hart
  match s.getFrame h (h.getX 4) with
  | .absent => s
  | .refused => s.killTask
  | .ok (s, v) =>
    let epc := word (bitsAt v 0 64)
    let sx2 := word (bitsAt v 256 64)
    if !isPc epc || s.asTask.refusesTarget epc || sx2.toNat % 16 != 0 then s.killTask
    else
      s.resumeAt ((h.setX 2 sx2).setX 4 (word (bitsAt v 320 64))) epc

/-- The fields of the slot at EPC, as format G. -/
def State.trappedWord (s : State) : Option GOp :=
  match s.asTask.fetch s.hart.csr.epc with
  | .line l => some (GOp.ofWord (l.slot (pcSlot s.hart.csr.epc)))
  | _ => none

/-- DFAN with DPROD and the policy .drop, with fans of at most 8 entries (R405). A cause that it meets is reported as a trap of
the DFAN: a page fault is then for firmware to serve, and poisoned data kills the task (R365). -/
def State.emulateDfan (s : State) : State :=
  match s.trappedWord with
  | none => s
  | some o =>
    let body : Op Unit := do
      let h := (← get).hart
      illegalIf (decide (8 < (bandOf (h.getBS o.a.toNat)).count) || decide (8 < (bandOf (h.getBS o.b.toNat)).count))
      let _ ← pairing .dprod o false
    let start := s.asTask
    match body { start with hart := { start.hart with pc := s.hart.csr.epc } } with
    | .ok _ s' =>
      let h := s'.hart
      State.serveReturn { s' with hart := { h with
        firmware := true, pc := s.hart.pc, csr := { h.csr with epc := nextPc s.hart.csr.epc } } }
    | .error (.trap t) s' =>
      let h := s'.hart
      let s' := { s' with hart := { h with
        firmware := true, pc := s.hart.pc
        csr := { h.csr with ecause := word (t.cause.code), eaddr := t.addr, einfo := t.info } } }
      if t.cause = .pageFault then s' else if t.cause = .poisonedData then s'.killTask else s'.reflect
    | .error .wait _ => s

/-- Pieces of a range of `n` bytes from `va` on that do not cross a doubleword: offset and length. -/
def doublewordPieces (va : Word) (n : Nat) : List (Nat × Nat) :=
  let lead := min n ((8 - va.toNat % 8) % 8)
  let rest := n - lead
  (if lead = 0 then [] else [(0, lead)]) ++
    (List.range (ceilDiv rest 8)).map fun k => (lead + 8 * k, min 8 (rest - 8 * k))

/-- Copy `n` bytes between two addresses of the context through views. -/
def State.copyRange (s : State) (h : Hart) (src dst : Word) (n : Nat) : Reach State :=
  (doublewordPieces dst n).foldl (fun r p =>
    match r with
    | .ok s =>
      let rq : Req := { h.taskReq false with covered := true }
      let wq : Req := { h.taskReq true with covered := true }
      match s.locate rq (src + word p.1), s.locate wq (dst + word p.1) with
      | .ok (.at_ t), .ok (.at_ u) =>
        let s := s.touch rq t
        .ok (s.writeTarget wq u (toBytes p.2 (s.readAt rq t p.2)) (s.poisonAt rq t p.2))
      | .error _, _ => .refused
      | _, .error _ => .refused
      | _, _ => .absent
    | r => r) (.ok s)

/-- The policy of R331 for coverage saturation: the handle's view becomes a private copy, and the instruction runs again. -/
def State.privateCopy (s : State) : State :=
  let h := s.hart
  let n := h.csr.einfo.toNat % 16
  let v := h.getH n
  let gs := Handle.granules v
  match s.freeRun h.asid gs.length with
  | none => s.killTask
  | some g =>
    let s' := s.mapArena h.asid fun a => (List.range gs.length).foldl (fun a k => a.setWord (g + k) true 1) a
    let off := Handle.lo v % 65536
    let size := Handle.hi v - Handle.lo v
    match s'.copyRange h (s.viewAddr h.asid v 0) (s.granuleAddr h.asid g + word off) size with
    | .absent => s
    | .refused => s.killTask
    | .ok s' =>
      let s' := s'.dropView h.place h.asid n v
      State.serveReturn { s' with hart := s'.hart.setH n (mkHandle off (off + size) g (Handle.writable v)) }

/-- The slot that a missed promise waits for is FULL. -/
def State.promisedFull (s : State) : Bool :=
  let h := s.hart
  match s.agentTarget (h.taskReq false) h.csr.eaddr with
  | some t => stateFull (s.readAt (h.taskReq false) t 8)
  | none => false

/-- Firmware's read of that slot's state word sets A on its page (R229). -/
def State.touchPromised (s : State) : State :=
  let q := s.hart.taskReq false
  (s.agentTarget q s.hart.csr.eaddr).elim s (s.touch q)

/-- The page that a trap names is resident now (R368). -/
def State.nowResident (s : State) : Bool :=
  match s.walk s.hart.place.die s.hart.asid s.hart.csr.eaddr with
  | .hit _ => true
  | _ => false

/-- A line-parity trap: the fetch cache is emptied and the line is fetched again on the return; a second failure at the same slot
kills the task. -/
def State.refetch (s : State) : State :=
  let h := s.hart
  let s := s.dropFetched
  if h.refetched.contains h.csr.epc then s.killTask
  else State.serveReturn { s with hart := { s.hart with refetched := h.csr.epc :: h.refetched } }

/-- Firmware's response to the trap of the running hart (R365). -/
def State.serveTrap (s : State) : State :=
  let h := s.hart
  let c := h.csr
  if !h.firmware || h.run != .running || bitsAt c.ecause.toNat 9 2 != 0 then s
  else
    match c.ecause.toNat % 256 with
    | 0x04 => s.refetch
    | 0x07 => if s.nowResident then s.serveReturn else s.reflect
    | 0x0B => s.privateCopy
    | 0x10 => if c.tvec ≠ 0 then s.reflect else if s.promisedFull then s.touchPromised.serveReturn else s.touchPromised
    | 0x16 => if c.einfo = 1 then s.reflectedReturn else s.reflect
    | 0x18 => s.emulateDfan
    | 0x1A | 0x1B => s.killTask
    | _ => s.reflect

def execTrapReflect (s : State) : Host.Outcome State Fault Refusal := .next s.serveTrap

/-- Firmware kills the running hart's task (R196, R365). -/
def execTaskKill (s : State) : Host.Outcome State Fault Refusal := .next s.killTask

/-! Pre-emption (R371, R375 to R377). -/

def execPreemptRequest (s : State) : Host.Outcome State Fault Refusal :=
  let h := s.hart
  match s.arg with
  | .request on => .next (if on && h.run != .running then s else s.setPreempt on)
  | _ => .next s

/-- The hart may stop here: its commands have completed, too. -/
def State.mayStop (s : State) : Bool := s.atStop && !s.commandPending s.hart.place

/-- The elements of an access that have not completed. -/
def Hart.pendingElems (h : Hart) (msk : Nat) : List Nat := (List.range h.cfg.vl).filter (h.pending msk)

/-- The bytes of a scale or mask transfer that have not completed. -/
def Hart.pendingBytes (h : Hart) (unit : Nat) : List Nat := (List.range (ceilDiv h.cfg.vl unit)).filter (!h.progressed ·)

/-- An access in elements (R94): those that have not completed, and its meaning with a stop. -/
def accessOf (h : Hart) (i : Instr) : Option (List Nat × (State → StopAfter → Host.Outcome State Fault Refusal)) :=
  match i with
  | .vld o => some (h.pendingElems o.msk.toNat, (vectorLoad i o .unit · ·))
  | .vst o => some (h.pendingElems o.msk.toNat, (vectorStore i o .unit · ·))
  | .vlds o => some (h.pendingElems o.msk.toNat, (vectorLoad i o .strided · ·))
  | .vsts o => some (h.pendingElems o.msk.toNat, (vectorStore i o .strided · ·))
  | .vldx o => some (h.pendingElems o.msk.toNat, (vectorLoad i o .indexed · ·))
  | .vstx o => some (h.pendingElems o.msk.toNat, (vectorStore i o .indexed · ·))
  | .eld o => some (h.pendingBytes 32, (scaleLoad o · ·))
  | .est o => some (h.pendingBytes 32, (scaleStore o · ·))
  | .mld o => some (h.pendingBytes 8, (maskLoad o · ·))
  | .mst o => some (h.pendingBytes 8, (maskStore o · ·))
  | .vgathb o => some (h.pendingElems o.msk.toNat, (blockGather o · ·))
  | .vldr o => some (h.pendingElems o.msk.toNat, (rotaryLoad o · ·))
  | .vamo o => some (h.pendingElems o.msk.toNat, (vectorAtomic o · ·))
  | .hgload o => some (h.pendingElems o.msk.toNat, (gridLoad o · ·))
  | .hggrad o => if o.fl.getLsbD 0 then none else some (h.pendingElems o.msk.toNat, (gridAdjoint o · ·))
  | _ => none

/-- A hart that has stopped within an access of an earlier hart `was`: it stands at the instruction, whose pops are made when it completes (R94,
R148, R278). -/
def Hart.stoppedFrom (h was : Hart) : Hart :=
  { h with waiting := none, streams := was.streams, counters := was.counters, fromXu := was.fromXu
           own := (List.range 16).foldl (fun f k => if (was.stream (48 + k)).isSome then f.setReg (48 + k) (was.own.reg (48 + k)) else f) h.own }

/-- The first of the elements that a store takes together with element `e`: sub-byte ones write their byte as one (R146). -/
def Hart.unitOf (h : Hart) (i : Instr) (e : Nat) : Nat :=
  match i with
  | .vst o => ((h.cfg.mates e).find? fun k => decide (k < h.cfg.vl) && h.pending o.msk.toNat k).getD e
  | _ => e

/-- The access at the PC stops at an element boundary: the elements of `within` that have not completed perform first, and some are left (R148,
R375). None where they cannot. -/
def State.performWithin (s : State) (within : Nat) : Option State :=
  match fetchInstr s with
  | .ok i s =>
    (accessOf s.hart i).bind fun a =>
      let now := a.1.filter fun e => within.testBit (s.hart.unitOf i e)
      if now.isEmpty then none
      else
        match a.2 s (some now) with
        | .next t => if t.hart.waiting.isSome && now.all t.hart.progressed then some { t with hart := t.hart.stoppedFrom s.hart } else none
        | _ => none
  | _ => none

/-- The pieces of `n` bytes of an image: 128 bytes each, the last one shorter. -/
def imagePieces (n : Nat) : List (Nat × Nat) := (List.range (ceilDiv n 128)).map fun k => (128 * k, min 128 (n - 128 * k))

/-- Write bytes at an address of the task's context, when every piece is reached. -/
def State.putImage (s : State) (h : Hart) (va : Word) (bytes : List Byte) : Reach State :=
  let pieces := imagePieces bytes.length
  match s.reach (h.taskReq true) va 128 pieces.length with
  | .ok l => .ok ((l.zip pieces).foldl (fun s p => s.writeTarget (h.taskReq true) p.1 ((bytes.drop p.2.1).take p.2.2)) s)
  | .absent => .absent
  | .refused => .refused

/-- Write the full image and its compact part, and free the slot (R376). -/
def State.forceOut (s : State) (address : Word) : Option State :=
  let h := s.hart
  let s := s.release h.place 4
  match s.putImage h address (h.fullImage address s.cycle) with
  | .ok s =>
    match s.putImage h h.imageAddr (h.compactImage 2 address s.cycle) with
    | .ok s => some ((s.release h.place 4).setAside)
    | _ => none
  | _ => none

/-- At its deadline the hart stops, just before an instruction or within it, and its full image is written (R375, R376). -/
def execForcedStop (s : State) : Host.Outcome State Fault Refusal :=
  match s.arg with
  | .fullImage address within => .next (
      if !s.mayStop || address.toNat % 128 != 0 then s
      else ((if within = 0 then some s else s.performWithin within).bind (·.forceOut address)).getD s)
  | _ => .next s

/-! Errors in a core's own state (R379, R380). -/

/-- The tiles of the gang of a task: a lone task is a gang of one. -/
def State.gangTiles (s : State) (r : TaskRef) (gang : Option Nat) : List Nat :=
  match gang, s.node? r.graph r.node with
  | some first, some n => (List.range n.record.unit).map (first + ·)
  | _, _ => [r.tile]

/-- The running hart of a tile. -/
def State.tileHart (s : State) (r : TaskRef) : Option Hart := s.harts.find? fun h => h.run == .running && h.task.ref == some r

/-- A member may be started again: it runs or is set aside, and has performed no act of R380. -/
def State.memberClean (s : State) (n : Node) (r : TaskRef) : Bool :=
  match s.tileHart r with
  | some h => !h.acted
  | none => (n.saved.find? (·.tile == r.tile)).elim false fun v => !v.acted

/-- A pre-empted member leaves its barriers, its sub-bins and its views, as a kill for a rerun does (R196, R380). -/
def State.discardSaved (s : State) (r : TaskRef) : State :=
  let ghost : Hart := { place := outside, task := { ref := some r }, csr := { taskid := word r.tile } }
  let s := (s.leaveBarriers ghost).discardBins ghost
  match s.graph? r.graph, (s.node? r.graph r.node).bind fun n => n.saved.find? (·.tile == r.tile) with
  | some gr, some v => v.views.foldl (fun s h => s.bumpAll gr.asid false (Handle.granules h)) s
  | _, _ => s

/-- Kill one member for a rerun. -/
def State.rerunMember (s : State) (r : TaskRef) : State :=
  match s.tileHart r with
  | some h => s.killAt h.place true
  | none => (s.discardSaved r).mapNode r.graph r.node fun n => { n.dropSaved r.tile with again := n.again ++ [r.tile] }

/-- A member stops within its access, if that is where it stands: which of its elements perform first is open (R380;
notes/assumptions/8.md). -/
def State.stopMember (s : State) (r : TaskRef) : State :=
  match s.tileHart r with
  | none => s
  | some h =>
    let home := s.hart.place
    let (s, c) := (s.turnTo h.place).popChoice
    ((if s.hart.firmware || s.hart.faulting.isSome then none else s.performWithin c).getD s).turnTo home

/-- A core-state error hits the running hart: the members of its gang stop, and it is rerun, or its node fails with code 0x41. -/
def State.coreStateError (s : State) : State :=
  let h := s.hart
  match h.task.ref with
  | none => s.killAt h.place false
  | some r =>
    match s.node? r.graph r.node with
    | none => s.killAt h.place false
    | some n =>
      let tiles := s.gangTiles r h.task.gang
      let first := tiles.headD r.tile
      let members := tiles.map fun t => { r with tile := t }
      let s := members.foldl State.stopMember s
      if n.record.restartable && decide (n.reruns.count first < 2) && members.all (s.memberClean n) then
        let s := s.mapNode r.graph r.node fun n => { n with reruns := first :: n.reruns }
        members.foldl State.rerunMember s
      else
        s.abortGraph h.place.die r.graph 0x41 r.node 0 (word r.tile) h.csr.epc h.csr.eaddr

/-- Service cores of a die (R3). -/
def serviceCores : Nat := 2

/-- A service core, by its die and its number. -/
def isServiceCore (die core : Nat) : Bool := decide (die < 4) && decide (core < serviceCores)

/-- The members' older commands complete first. A service core's error is fatal (R381). -/
def execCoreStateError (s : State) : Host.Outcome State Fault Refusal :=
  match s.arg with
  | .core die core => .next (if isServiceCore die core then s.stopDevice { why := .serviceCore, place := { die, core } } else s)
  | _ => .next (
      let h := s.hart
      let busy := match h.task.ref with
        | some r => (s.gangTiles r h.task.gang).any fun t =>
            (s.tileHart { r with tile := t }).elim false fun m => s.commandPending m.place
        | none => s.commandPending h.place
      if h.run != .running || busy then s else s.coreStateError)

def execWatchdogExpiry (s : State) : Host.Outcome State Fault Refusal :=
  match s.arg with
  | .core die core => .next (if isServiceCore die core then s.stopDevice { why := .watchdog, place := { die, core } } else s)
  | _ => .next s

/-! Monitors and power (R406, R408). -/

/-- A monitor event is raised to firmware. -/
def State.monitorEvent (s : State) (die : Nat) : State :=
  let d := s.die die
  (s.setDie die { d with events := d.events + 1 }).raiseEvent die none

/-- The device has the sensor. -/
def Sensor.exists_ : Sensor → Bool
  | .temperature core => core < 40
  | .voltage _ => true
  | .oscillator quadrant => quadrant < 4

/-- The thresholds of a sensor, by their numbers among the die's limits: warning, throttle, shutdown. An oscillator only warns. -/
def Sensor.limits : Sensor → List Nat
  | .temperature _ => [0, 1, 2]
  | .voltage _ => [3, 4, 5]
  | .oscillator _ => [6]

/-- What a reading is held against: of a voltage and of an oscillator its distance from the nominal or the first reading. -/
def Sensor.amount (m : Sensor) (reading : Int) : Int :=
  match m with
  | .temperature _ => reading
  | .voltage _ | .oscillator _ => reading.natAbs

/-- A reading reaches threshold `k` of its sensor: 0 warning, 1 throttle, 2 shutdown. -/
def Die.reaches (d : Die) (m : Sensor) (reading : Int) (k : Nat) : Bool :=
  ((Sensor.limits m)[k]?).elim false fun l => decide ((d.limits.getD l 0 : Int) ≤ Sensor.amount m reading)

/-- The thresholds that a reading reaches. -/
def Die.reached (d : Die) (m : Sensor) (reading : Int) : List Nat := (List.range 3).filter (d.reaches m reading)

/-- A die's sensor has a new reading. -/
def Die.read (d : Die) (m : Sensor) (reading : Int) : Die :=
  let readings := (m, reading) :: d.readings.filter (·.1 != m)
  let hot := readings.any fun r => d.reaches r.1 r.2 1
  { d with readings, throttle := if hot then max 1 d.throttle else 0 }

/-- A sensor's reading: it raises an event where it comes to reach a threshold, throttles the die while one stands at its throttle
threshold, and at shutdown stops the device. -/
def execMonitorEvent (s : State) : Host.Outcome State Fault Refusal :=
  match s.arg with
  | .monitor die m reading => .next (
      let d := s.die die
      let old := ((d.readings.find? (·.1 == m)).map fun r => d.reached m r.2).getD []
      if 4 ≤ die || !(Sensor.exists_ m) then s
      else
        let s := s.setDie die (d.read m reading)
        let s := if (d.reached m reading).any (!old.contains ·) then s.monitorEvent die else s
        if d.reaches m reading 2 then s.stopDevice { why := .shutdown, place := { die } } else s)
  | _ => .next s

/-- A throttle that lasts reaches every BUDGET class. -/
def execThrottleEscalate (s : State) : Host.Outcome State Fault Refusal :=
  atPosition s fun die => if (s.die die).throttle = 1 then s.setDie die { s.die die with throttle := 2 } else s

/-- A new window: nothing has been charged. -/
def execBudgetWindow (s : State) : Host.Outcome State Fault Refusal :=
  atPosition s fun die => s.setDie die { s.die die with charged := 0 }

/-! The refresh calendar (R217, R218). -/

def refreshPeriod : Nat := 10800
def refreshLength : Nat := 2160

/-- The chip counter comes to the next window's start. -/
def execRefreshWindowStart (s : State) : Host.Outcome State Fault Refusal :=
  .next (s.advanceTo ((s.cycle.toNat / refreshPeriod + 1) * refreshPeriod))

/-- The chip counter comes to the end of the window that is open, or else of the next. -/
def execRefreshWindowEnd (s : State) : Host.Outcome State Fault Refusal :=
  let t := s.cycle.toNat
  let start := if t % refreshPeriod < refreshLength then t - t % refreshPeriod else (t / refreshPeriod + 1) * refreshPeriod
  .next (s.advanceTo (start + refreshLength))

/-! Device registers (R5, R6, R193, R215, R224, R324, R371, R386, R389, R390, R394, R408). -/

/-- Functions of the device, and launch queues of one (R193, R390). -/
def queueExists (fn q : Nat) : Bool := decide (fn < 16) && decide (q < 16)

/-- Launch queue `q` of function `fn`. -/
def queueKey (fn q : Nat) : Nat := fn * 16 + q

/-- A page that firmware may make a granule of an arena: 64 KiB of class 01, with R and W (R324). -/
def State.granuleMapped (s : State) (asid : Asid) (va : Word) : Bool :=
  match s.walk outside.die asid va with
  | .hit x => Entry.size x.entry == 0 && Entry.cls x.entry == 1 && Entry.readable x.entry && Entry.writable x.entry
  | _ => false

/-- The bounds of R324, and every granule mapped. -/
def State.arenaOk (s : State) (a : Arena) : Bool :=
  a.base.toNat % 65536 == 0 && a.granules ≤ 2 ^ 24 && decide (a.base.toNat + 65536 * a.granules ≤ 0x00FFFF0000000000) &&
  (List.range a.granules).all fun g => s.granuleMapped a.asid (a.base + word (65536 * g))

/-- A granule that comes to an arena reads zero until the context writes it (R330). -/
def State.clearGranule (s : State) (asid : Asid) (va : Word) : State :=
  match s.walk outside.die asid va with
  | .hit x =>
    let s := s.settleAll x.pa 65536
    { s with mem := s.mem.eraseRange x.pa (x.pa + 65536), poison := s.poison.eraseRange (x.pa / 8) ((x.pa + 65536) / 8) }
  | _ => s

/-- The granules of an arena that another one of its context does not hold. -/
def Arena.granulesBeyond (a old : Arena) : List Word :=
  ((List.range a.granules).filter fun g => a.base != old.base || decide (old.granules ≤ g)).map fun g => a.base + BitVec.ofNat 64 (65536 * g)

/-- Give a context an arena, or change one; firmware makes none that breaks R324 (notes/assumptions/78.md). -/
def State.setArena (s : State) (asid : Asid) (f : Arena → Arena) : State :=
  let old := (s.arena asid).getD { asid, base := 0, granules := 0 }
  let a := f old
  if s.arenaOk a then
    let s := (a.granulesBeyond old).foldl (·.clearGranule asid ·) s
    { s with arenas := a :: s.arenas.filter (·.asid != asid) }
  else s

/-- A weight store has no owner any more; every byte reads as zero from then on, also where a core has kept a line of it on its read-only
path (R215). -/
def State.freeStore (s : State) (die : Nat) : State :=
  let lo := weightAddr die 0
  let s := s.discardReadOnly fun l => decide (lo ≤ l.address) && decide (l.address < lo + 2 ^ 32)
  { (s.setDie die { s.die die with storeOwner := none }) with
    mem := s.mem.eraseRange lo (lo + 2 ^ 32), poison := s.poison.eraseRange (lo / 8) ((lo + 2 ^ 32) / 8) }

/-- A WSLOAD that can fill a die's store. The elements of an index list are not known: it counts for every die (DESIGN CHOICE,
notes/assumptions/76.md). -/
def Cmd.fills (c : Cmd) (die : Nat) : Bool :=
  match c.kind with
  | .wsload n _ dst => dst.indexed || (List.range n).any fun k =>
      match regionOf c.place.die (dst.base + BitVec.ofInt 64 (dst.offset k 0)) with
      | .weights d _ => d == die
      | _ => false
  | _ => false

/-- A die's weight store loses its owner once no task of the context runs on the die and its WSLOADs to the die are complete (R215). -/
def State.releaseStore (s : State) (die : Nat) : State :=
  let d := s.die die
  if (s.harts.any fun h => h.run == .running && h.place.die == die && d.storeOwner == some h.asid) ||
      s.cmds.any fun c => d.storeOwner == some c.asid && c.fills die then s
  else s.freeStore die

/-- The scratchpad blocks of a context have no owner any more: the next claim zeroes them (R211). -/
def State.freeBlocks (s : State) (asid : Asid) : State :=
  { s with tags := s.tags.map fun t => if t.2.owner = some asid then (t.1, { owner := none, passed := t.2.passed + 1 }) else t }

/-- A context is in use: a task of it runs, a command or a dispatcher's write of it is not complete, or a graph of it is submitted or under
way (R193 to R196). -/
def State.contextBusy (s : State) (asid : Asid) : Bool :=
  (s.harts.any fun h => h.run == .running && h.asid == asid) || (s.cmds.any fun c => c.asid == asid) ||
  (s.dispWrites.any fun w => w.asid == asid) || (s.graphs.any fun g => g.asid == asid && !g.aborted && !g.complete) ||
  ((List.range 4).any fun d => (s.die d).launch.any fun l => l.1 == asid) || s.queues.any fun q => q.2.queue.any fun l => l.1 == asid

/-- Firmware destroys a context, or creates one: its exported views end, its slots start again at generation 1 (R336), and its blocks, its
weight stores, its arena and what it has loaded are given up (R211, R215, R330), with what is kept of its graphs, its barriers and its bin
sets. It is not in use then (notes/assumptions/78.md). -/
def State.resetContext (s : State) (asid : Asid) : State :=
  if s.contextBusy asid then s
  else
    let s := (s.resetExports asid).freeBlocks asid
    let s := (List.range 4).foldl (fun s die => if (s.die die).storeOwner = some asid then s.freeStore die else s) s
    { s with
      graphs := s.graphs.filter (·.asid != asid)
      barriers := s.barriers.filter (·.asid != asid)
      sets := s.sets.filter (·.asid != asid)
      arenas := s.arenas.filter (·.asid != asid)
      symbols := s.symbols.filter (·.1 != asid)
      objects := s.objects.filter (·.1 != asid) }

def State.writeRegister (s : State) (r : DevReg) (v : Word) : State :=
  match r with
  | .lqaddr fn q =>
    let k := queueKey fn q
    if !queueExists fn q then s else { s with queues := s.queues.set {} k { s.queues.get {} k with gaddr := v } }
  | .ptbase => { s with ptbase := v.toNat % physicalSize }
  | .ptlog2 => { s with ptlog2 := v.toNat }
  | .deadline die => s.setDie die { s.die die with deadline := v }
  | .budgetUnits die => s.setDie die { s.die die with budgetUnits := v }
  | .budgetThreshold die => s.setDie die { s.die die with threshold := some v }
  | .sensorLimit die k =>
    let d := s.die die
    s.setDie die { d with limits := d.limits.setIfInBounds k (min (d.limits.getD k 0) v.toNat) }
  | .provenance asid => { s with marks := s.marks.set {} asid.toNat { s.marks.get {} asid.toNat with identifier := v } }
  | .frameCounter asid => { s with marks := s.marks.set {} asid.toNat { s.marks.get {} asid.toNat with counter := v.toNat % 2 ^ 32 } }
  | .assign asid =>
    if asid = 0 then s
    else { s with assigned := s.assigned.set 0 asid.toNat (if v.toNat < 16 then v.toNat + 1 else 0) }
  | .bar2 fn page => if 16 ≤ fn || 2 ^ 20 ≤ page then s else { s with bar2 := s.bar2.set 0 (fn * 2 ^ 20 + page) v }
  | .replica die frame =>
    if 4 ≤ die || 2 ^ 36 ≤ frame then s
    else { s with replicas := s.replicas.set 0 (die * 2 ^ 40 + frame) (if v = -1 then 0 else v.toNat % 2 ^ 36 + 1) }
  | .route window peer => { s with routes := s.routes.set none window (peer.map fun p => (p, v.toNat)) }
  | .peerGrant page => { s with grants := s.grants.set false page (v = 1) }
  | .abase asid => s.setArena asid fun a => { a with base := v }
  | .agran asid => s.setArena asid fun a => { a with granules := v.toNat }
  | .releaseStore die => s.releaseStore die
  | .context asid => s.resetContext asid
  | .latent die => s.setDie die { s.die die with latent := 0, latentLog := [] }
  | .other n => { s with registers := s.registers.set 0 n v }

def execRegisterWrite (s : State) : Host.Outcome State Fault Refusal :=
  match s.arg with
  | .register r v => .next (s.writeRegister r v)
  | _ => .next s

/-! Boot (R22, R381, R397). -/

/-- 16 MiB of Dolevo memory lie at the address (R219, R381). -/
def isDumpArea (base : Nat) : Bool := decide (base + 2 ^ 24 ≤ 2 ^ 39)

/-- The image runs only when both signatures verify against the keys in the ROM. -/
def execBoot (s : State) : Host.Outcome State Fault Refusal :=
  match s.arg with
  | .boot image ed ml entry dumps =>
    .next (
      if ed25519Verify (toBytes 32 Config.romEd25519.toNat) image (toBytes 64 ed.toNat) &&
          mlDsaVerify (toBytes 1952 Config.romMlDsa.toNat) image (toBytes 3309 ml.toNat) then
        { s with trapEntry := entry, dumps := if dumps.all isDumpArea then dumps else [], bootFailed := false }
      else { s with bootFailed := true })
  | _ => .next s

/-! Migration (R235, R387). -/

/-- Lines of a page (R235). -/
def Entry.lines (e : Entry) : Nat := 512 * 2 ^ sizeShift (Entry.size e)

/-- An object that the device serves moves with its line. -/
def movedWith (src dst pa : Nat) : Nat := if src ≤ pa ∧ pa < src + 128 then pa - src + dst else pa

def CmdKind.movedWith (src dst : Nat) : CmdKind → CmdKind
  | .breplay pa => .breplay (Sys2Proof.Machine.movedWith src dst pa)
  | .bflush pa => .bflush (Sys2Proof.Machine.movedWith src dst pa)
  | k => k

/-- The active barriers and bin sets of a line, and the commands that name them, follow it to its new place (R201, R314). -/
def State.moveObjects (s : State) (src dst : Nat) : State :=
  { s with
    barriers := s.barriers.map fun b => { b with pa := movedWith src dst b.pa }
    sets := s.sets.map fun b => { b with pa := movedWith src dst b.pa }
    cmds := s.cmds.map fun c => { c with kind := c.kind.movedWith src dst } }

/-- Copy a line of 128 bytes with its poison. Every store to the old line has performed first. What lies behind a port that is down is read
as poisoned, and a write there is discarded (R388). -/
def State.copyLine (s : State) (src dst : Nat) : State :=
  let s := s.settleAll src 128
  let bytes := (List.range 128).map fun k => s.mem.get 0 (src + k)
  let poison := (List.range 16).foldl (fun m k =>
    Store.set false m (dst / 8 + k) (s.poison.get false (src / 8 + k) || s.unreachable src)) s.poison
  if s.unreachable dst then s else { s.setMemBytes dst bytes with poison }

/-- No TLB serves a page of a context that migrates from a copy made before (R235; DEDUCED, notes/assumptions/109.md). -/
def State.dropPage (s : State) (e : Entry) : State :=
  { s with tlb := s.tlb.filter fun c => !(Entry.asid c.entry == Entry.asid e && Entry.vpn c.entry == Entry.vpn e && Entry.size c.entry == Entry.size e) }

/-- The next line of a migrating page, and PROG, as one event. -/
def execMigrationLineCopy (s : State) : Host.Outcome State Fault Refusal :=
  match s.arg with
  | .entry b j => .next (
      let e := s.entryAt b j
      let c := s.entryAt b (j + 1)
      let prog := bitsAt c.toNat 71 21
      if Entry.valid e && Entry.migrating e && !(Entry.bad e j c) && decide (prog < Entry.lines e) then
        let src := s.routed (Entry.frame e * 2 ^ 16 + 128 * prog)
        let dst := s.routed (bitsAt c.toNat 92 36 * 2 ^ 16 + 128 * prog)
        let s := ((s.copyLine src dst).moveObjects src dst).dropPage e
        (s.markWrite (s.entryAddr b (j + 1)) 16 false).setMemBytes (s.entryAddr b (j + 1)) (toBytes 16 (putBits c.toNat 71 21 (prog + 1)))
      else s)
  | _ => .next s

end Sys2Proof.Machine
end

