-- ==== Sys2Proof/Machine/Dispatcher.lean ====
section
/-!
DEFINITION. The steps of the dispatchers: launch queues, validation, releases, completions, placing, aging, and their waiting
writes (01:R13, R16, R17; 02:R28; 10:R191 to R199, R410; 13:R241; 22:R374, R378).
-/

namespace Sys2Proof.Machine

/-! Launch queues (R193). -/

/-- Entries of a function's launch queue. -/
def queueCapacity : Nat := 256

/-- GO: the graph joins the queue; it is dropped, and OVF set, when the queue is full or the context is not the function's. -/
def execLqGo (s : State) : Host.Outcome State Fault Refusal :=
  match s.arg with
  | .queue fn q asid => if !queueExists fn q then .next s else .next (
      let lq := s.queues.get {} (queueKey fn q)
      let mine := asid != 0 && s.assigned.get 0 asid.toNat == fn + 1
      let lq := if mine && decide (lq.queue.length < queueCapacity) then { lq with queue := lq.queue ++ [(asid, lq.gaddr)] }
        else { lq with ovf := true }
      { s with queues := s.queues.set {} (queueKey fn q) lq })
  | _ => .next s

def execLqOvfClear (s : State) : Host.Outcome State Fault Refusal :=
  match s.arg with
  | .queue fn q _ => if !queueExists fn q then .next s else .next (
      let lq := s.queues.get {} (queueKey fn q)
      { s with queues := s.queues.set {} (queueKey fn q) { lq with ovf := false } })
  | _ => .next s

/-- The oldest graph of a queue is validated (R191, R193, R194). Which die's dispatcher takes a host's graph is a choice. -/
def execGraphValidation (s : State) : Host.Outcome State Fault Refusal :=
  match s.arg with
  | .submission (.host fn q) => .next (
      let lq := s.queues.get {} (queueKey fn q)
      match lq.queue with
      | [] => s
      | (asid, header) :: rest =>
        let s := { s with queues := s.queues.set {} (queueKey fn q) { lq with queue := rest } }
        let (s, c) := s.popChoice
        (s.validateGraph (c % 4) asid header).1)
  | .submission (.device die) => .next (
      let d := s.die die
      match d.launch with
      | [] => s
      | (asid, header) :: rest =>
        let (t, bad) := (s.setDie die { d with launch := rest }).validateGraph die asid header
        t.answerLaunch die (d.launchSeq - word d.launch.length) s.nextGraph bad)
  | _ => .next s

/-! Release and completion (R195). -/

/-- The node's predecessors have completed and its producer has been released. -/
def Graph.mayRelease (gr : Graph) (nd : Node) : Bool :=
  !gr.aborted && !nd.released &&
  (nd.record.preds.all fun p => (gr.nodes[p]?).elim false (·.complete)) &&
  nd.record.wmnode.elim true fun w => (gr.nodes[w]?).elim false (·.released)

/-- The producer of the node's watermark dependence has completed. -/
def Graph.producerDone (gr : Graph) (nd : Node) : Bool :=
  nd.record.wmnode.elim false fun w => (gr.nodes[w]?).elim false (·.complete)

/-- Release: the watermark word is raised if the producer has completed, DONEP is zeroed, and the tiles are queued. While the
watermark word's page is missing the node is not yet released. -/
def State.releaseNode (s : State) (die : Nat) (gr : Graph) (n : Nat) (nd : Node) : State :=
  let write (address : Word) (op : DispOp) : DispWrite :=
    { die, asid := gr.asid, graph := gr.id, node := n, address, op, completion := true }
  let zero (s : State) : State :=
    let s := s.mapNode gr.id n fun x => { x with released := true, waited := Vector.replicate 4 0, turn := Vector.replicate 4 s.turns }
    (({ s with turns := s.turns + 1 }).dispatchWord (write nd.record.donep (.bytes 0 8))).1
  if gr.producerDone nd then
    match s.dispatchWord (write nd.record.wmaddr (.bytes (2 ^ 64 - 1) 8)) with
    | (s, .performed) => zero s
    | (s, _) => s
  else zero s

def execNodeRelease (s : State) : Host.Outcome State Fault Refusal :=
  match s.arg with
  | .node g n => .next (
      match s.graph? g, s.node? g n with
      | some gr, some nd =>
        if gr.mayRelease nd && !s.nodeBusy g n then
          let (s, c) := s.popChoice
          s.releaseNode (c % 4) gr n nd
        else s
      | _, _ => s)
  | _ => .next s

/-- Completion: ENDED has reached TILES, and DONE is written; the dependants' watermarks and the graph's completion follow. -/
def execNodeCompletion (s : State) : Host.Outcome State Fault Refusal :=
  match s.arg with
  | .node g n => .next (
      match s.graph? g, s.node? g n with
      | some gr, some nd =>
        if nd.released && !nd.complete && !gr.aborted && decide (nd.record.tiles ≤ nd.ended) && !s.doneWaits g n then
          let (s, c) := s.popChoice
          match s.dispatchWord { die := c % 4, asid := gr.asid, graph := g, node := n, address := nd.record.donep, op := .done
                                 completion := true } with
          | (s, .performed) => s.afterDone (c % 4) g n
          | (s, _) => s
        else s
      | _, _ => s)
  | _ => .next s

/-! Placing (R13, R16, R17, R197, R199). -/

/-- Control arrives at the placed hart's PC as a transfer does (R28): a value that is not a PC or a slot with TGT clear raises
its trap there, with that PC as EPC: no instruction has transferred (DESIGN CHOICE, notes/assumptions/111.md). -/
def State.arrive (s : State) : State :=
  let pc := s.hart.pc
  if !isPc pc || s.refusesTarget pc then s.takeTrap { cause := .illegalBranchTarget, addr := pc } else s

/-- A hart joins the harts of the package. -/
def State.addHart (s : State) (h : Hart) : State :=
  let home := s.hart
  let s := ({ s with hart := { h with arrived := s.cycle } }).arrive
  if home.run = .idle then s else { s with hart := home, parked := s.parked ++ [s.hart] }

/-- The core reads nothing that it kept of earlier tasks on its read-only path (R241), and its lane groups are dealt (R97). -/
def State.placeHart (s : State) (h : Hart) : State :=
  let p := h.place
  let s := (s.addHart h).dropReadOnly p
  let s := s.deal p.die p.core
  if h.pair then s.deal p.die (p.core + 1) else s

/-- What a placing takes: tiles that are new, tiles to be started again, or one that was set aside. -/
inductive Pick where
  | fresh (tiles : List Nat)
  | again (tiles : List Nat)
  | saved (tile : Nat)
  deriving DecidableEq, Repr

/-- The picks that a node offers for so many places. -/
def Node.picks (nd : Node) (n : Nat) : List Pick :=
  let u := nd.record.unit
  (if n = u && decide (nd.next + u ≤ nd.record.tiles) then [.fresh ((List.range u).map (nd.next + ·))] else []) ++
  (if n = u && decide (u ≤ nd.again.length) then [.again (nd.again.take u)] else []) ++
  (match nd.saved with
    | t :: _ => if n = 1 then [.saved t.tile] else []
    | [] => [])

/-- Take a pick off its node. -/
def Node.take (nd : Node) : Pick → Node
  | .fresh l => { nd with next := nd.next + l.length, waited := Vector.replicate 4 0 }
  | .again l => { nd with again := nd.again.drop l.length, waited := Vector.replicate 4 0 }
  | .saved t => { nd.dropSaved t with waited := Vector.replicate 4 0 }

/-- Take a pick off its node, whose entry on a die has had its turn (R198). -/
def State.takePick (s : State) (g n die : Nat) (pick : Pick) : State :=
  let s := s.mapNode g n fun x => { x.take pick with turn := x.turn.setIfInBounds die s.turns }
  { s with turns := s.turns + 1 }

/-- Place the tiles of a pick. -/
def State.placePick (s : State) (gr : Graph) (n : Nat) (nd : Node) (places : List Place) (pick : Pick) : State :=
  match places, pick with
  | [], _ => s
  | p :: rest, .fresh l | p :: rest, .again l =>
    ((p :: rest).zip l).foldl (fun s p => s.placeHart (freshHart gr n nd.record p.2 p.1)) (s.takePick gr.id n p.die pick)
  | p :: _, .saved t =>
    match s.restored { freshHart gr n nd.record t p with acted := nd.saved.any fun v => v.tile == t && v.acted } with
    | some (h, full) => (((s.takePick gr.id n p.die pick).touchImages h full).restoreBlocks h t nd.kept).placeHart h
    | none => s

/-- Where a pick may go: a tile that was set aside, where its scratchpad can go too (R377). -/
def State.pickOk (s : State) (asid : Asid) (nd : Node) : Pick → Place → Bool
  | .saved _, p => s.resumesAt asid nd p
  | _, _ => true

/-- The next tile or gang of a node is placed where it fits, or a tile that was set aside resumes. A gang's tile resumes by
itself. Which of several the dispatcher takes is a choice. -/
def execTilePlace (s : State) : Host.Outcome State Fault Refusal :=
  match s.arg with
  | .place g n places => .next (
      match s.graph? g, s.node? g n, places.head? with
      | some gr, some nd, some p =>
        let ready := nd.released && !gr.aborted && (places.all fun q => q.die == p.die)
        let e : QEntry := { graph := g, asid := gr.asid, index := n, node := nd }
        let fits (pick : Pick) : Bool :=
          s.fitAll nd.record (s.pickOk gr.asid nd pick) [] places && s.preferred nd.record (s.pickOk gr.asid nd pick) [] places
        match (nd.picks places.length).filter fits with
        | [] => s
        | a :: rest =>
          if ready && s.mayPlace e p.die places then
            let (s, c) := s.popChoice
            s.placePick gr n nd places ((a :: rest).getD (c % (rest.length + 1)) a)
          else s
      | _, _, _ => s)
  | _ => .next s

/-! Aging and waiting writes (R198, R410). -/

/-- 4,096 more cycles of waiting of an entry. -/
def execPriorityAging (s : State) : Host.Outcome State Fault Refusal :=
  match s.arg with
  | .aging g n die => .next (
      match s.node? g n with
      | some nd =>
        if nd.released && nd.left && nd.record.dieAllowed die then
          s.mapNode g n fun x => { x with waited := x.waited.setIfInBounds die (x.waited.getD die 0 + 1) }
        else s
      | none => s)
  | _ => .next s

def execDispatcherWriteResume (s : State) : Host.Outcome State Fault Refusal :=
  match s.arg with
  | .index k => .next (s.resumeDispatch k true)
  | .cannotMap k => .next (s.resumeDispatch k false)
  | _ => .next s

end Sys2Proof.Machine
end

