-- ==== Sys2Proof/Machine/Hosts.lean ====
section
/-!
DEFINITION. What the host and the Bryned peers do to the package (10:R193; 11:R209, R219, R221; 22:R381; 23:R386,
R388 to R391).
-/

namespace Sys2Proof.Machine

/-- A write by an outside agent performs for every agent at once; no replica of a read-duplicated page stays (R386). -/
def State.outsideWrite (s : State) (pa : Nat) (bytes : List Byte) : State := (s.dropReplicasAt pa).putBytes pa bytes

/-- What an outside agent reads: package-scope memory. What a poisoned doubleword reads as is open. -/
def State.outsideRead (s : State) (pa n : Nat) : State × List Byte :=
  if s.poisonIn outside pa pa n then
    let (s, c) := s.popChoice
    (s, toBytes n c)
  else (s, toBytes n (s.memNat pa n))

/-! The host (R390, R391). -/

def State.hostError (s : State) (fn : Nat) : State := { s with hostErrors := s.hostErrors.set 0 fn (s.hostErrors.get 0 fn + 1) }

/-- Bytes of a function's BAR: one physical function and 15 virtual ones. -/
def barSize (fn bar : Nat) : Nat :=
  if 16 ≤ fn then 0
  else
    match bar with
    | 0 => 2 ^ 16
    | 2 => 2 ^ 36
    | 4 => if fn = 0 then 2 ^ 26 else 0
    | _ => 0

/-- LQCTL as it reads (R193). -/
def LaunchQueue.control (q : LaunchQueue) : Nat :=
  (256 - q.queue.length) * 2 ^ 22 + if q.ovf then 2 ^ 31 else 0

/-- A byte of BAR 0: launch queue q at 0x1000 + 16q; the rest reads zero. -/
def State.bar0Byte (s : State) (fn ofs : Nat) : Byte :=
  if 0x1000 ≤ ofs && ofs < 0x1100 then
    let q := s.queues.get {} (queueKey fn ((ofs - 0x1000) / 16))
    BitVec.ofNat 8 ((if ofs % 16 < 8 then q.gaddr.toNat else q.control) / 2 ^ (8 * (ofs % 8)))
  else 0

/-- The page of BAR 2 that holds an offset, translated: none if it is missing from the window, not the function's, not resident,
or without the permission, or of a class that is refused (R221, R391). -/
def State.bar2Page (s : State) (fn ofs : Nat) (write : Bool) : Option Xlat :=
  let m := (s.bar2.get 0 (fn * 2 ^ 20 + ofs / 2 ^ 16)).toNat
  let asid : Asid := BitVec.ofNat 12 (m / 2 ^ 52)
  let va := word (m % 2 ^ 40 * 2 ^ 16 + ofs % 2 ^ 16)
  if asid = 0 || s.assigned.get 0 asid.toNat != fn + 1 || regionOf 4 va != .paged then none
  else
    match s.walk outside.die asid va with
    | .hit x =>
      if (Entry.cls x.entry == 0 || Entry.cls x.entry == 2) && Entry.permits x.entry { place := outside, asid, write } then some x
      else none
    | _ => none

/-- The walk sets A, and D for a write (R229); no TLB keeps a copy. -/
def State.outsideTouch (s : State) (x : Xlat) (write : Bool) : State :=
  { s.touchEntry { place := outside, asid := 0, write } x with tlb := s.tlb }

/-- Pieces of a range that do not cross a multiple of `size`: offset and length. -/
def piecesOf (size ofs n : Nat) : List (Nat × Nat) :=
  (List.range (ceilDiv (ofs % size + n) size)).filterMap fun k =>
    let lo := max ofs ((ofs / size + k) * size)
    let hi := min (ofs + n) ((ofs / size + k + 1) * size)
    if lo < hi then some (lo, hi - lo) else none

/-- Pieces that do not cross a page of 64 KiB. -/
def pagePieces (ofs n : Nat) : List (Nat × Nat) := piecesOf (2 ^ 16) ofs n

/-- The translations of a piece of BAR 2 within a page, with offset and length: of a page that migrates line by line, since each line stands
in one of its two frames (R235). -/
def State.bar2Lines (s : State) (fn : Nat) (write : Bool) (p : Nat × Nat) : Option (List (Xlat × Nat × Nat)) :=
  match s.bar2Page fn p.1 write with
  | none => none
  | some x =>
    (if x.entry.migrating then piecesOf 128 p.1 p.2 else [p]).mapM fun l => (s.bar2Page fn l.1 write).map fun x => (x, l)

def State.readBar2 (s : State) (fn ofs n : Nat) : State :=
  match (pagePieces ofs n).mapM (s.bar2Lines fn false) with
  | none => { s.hostError fn with hostData := none }
  | some l =>
    let (s, bytes) := l.flatten.foldl (fun acc p =>
      let s := State.outsideTouch acc.1 p.1 false
      let (s, b) := s.outsideRead p.1.pa p.2.2
      (s, acc.2 ++ b)) (s, [])
    { s with hostData := some bytes }

/-- A read of the dump areas: that of die d lies at 16 MiB × d; none where boot has named no area. -/
def State.readDumps (s : State) (ofs n : Nat) : State :=
  match (pagePieces ofs n).mapM fun p => (s.dumps[p.1 / 2 ^ 24]?).map fun base => (base + p.1 % 2 ^ 24, p.2) with
  | none => { s with hostData := none }
  | some l =>
    let (s, bytes) := l.foldl (fun acc p =>
      let (s, b) := acc.1.outsideRead p.1 p.2
      (s, acc.2 ++ b)) (s, [])
    { s with hostData := some bytes }

/-- What the physical function reads through the monitor interface (R272, R369, R407) and as its status register (R397), as bytes in the
layout of notes/assumptions/98.md. -/
def State.monitorBytes (s : State) : MonitorItem → List Byte
  | .reading die m => toBytes 8 (BitVec.ofInt 64 ((((s.die die).readings.find? (·.1 == m)).map (·.2)).getD 0)).toNat
  | .counters p =>
    let c := ((s.harts.find? fun h => h.place == p && h.run == .running).map (·.counters)).getD (s.slotCounters.get {} (Place.key p))
    [c.decloss, c.slipstall, c.ldqwait, c.strwait].flatMap fun v => toBytes 4 v.toNat
  | .latent die => toBytes 4 (s.die die).latent.toNat
  | .latentEntry die k => toBytes 64 ((s.die die).latentLog.getD k 0).toNat
  | .bootStatus => [if s.bootFailed then 1 else 0]

/-- A read of a BAR, of the monitor interface, or of a certificate through the physical function (R397; notes/assumptions/94.md). It is an acquire at system
scope: it sees every access that has performed at package scope. -/
def execHostRead (s : State) : Host.Outcome State Fault Refusal :=
  match s.arg with
  | .hostRead bar fn ofs n => .next (
      if barSize fn bar < ofs + n then { s with hostData := none }
      else
        match bar with
        | 0 => { s with hostData := some ((List.range n).map fun k => s.bar0Byte fn (ofs + k)) }
        | 2 => s.readBar2 fn ofs n
        | _ => s.readDumps ofs n)
  | .certificate k => .next { s with hostData := some (Config.certificate k) }
  | .monitorRead item => .next { s with hostData := some (s.monitorBytes item) }
  | _ => .next s

/-- A write through BAR 2: plain, or discarded page by page and logged. -/
def execHostWrite (s : State) : Host.Outcome State Fault Refusal :=
  match s.arg with
  | .hostWrite fn ofs bytes => .next (
      if barSize fn 2 < ofs + bytes.length then s
      else (pagePieces ofs bytes.length).foldl (fun s p =>
        match s.bar2Lines fn true p with
        | some l => l.foldl (fun s x => (s.outsideTouch x.1 true).outsideWrite x.1.pa ((bytes.drop (x.2.1 - ofs)).take x.2.2)) s
        | none => s.hostError fn) s)
  | _ => .next s

/-! Bryned ports (R388). -/

def portCount : Nat := 12

/-- Failures of one flit after which the port goes down: the first and 16 replays. -/
def flitFailures : Nat := 17

def State.port (s : State) (p : Nat) : Port := s.ports.get {} p
def State.setPort (s : State) (p : Nat) (v : Port) : State := { s with ports := s.ports.set {} p v }

/-- The payload of a flit: its bytes 16 to 239. -/
def flitPayload (flit : List Byte) : List Byte := (flit.drop 16).take 224

/-- A flit arrives: one that fails its CRC is dropped and asked for again from its sequence number; so is one that is not the next in
sequence; the next in sequence is taken once. -/
def execBrynedFlit (s : State) : Host.Outcome State Fault Refusal :=
  match s.arg with
  | .flit k flit seq ok => .next (
      let p := s.port k
      if portCount ≤ k || p.down || flit.length != 256 || decide (flitFailures ≤ p.failed) || seq != p.expected then s
      else if ok then s.setPort k { p with received := p.received ++ [flitPayload flit], expected := p.expected + 1, failed := 0 }
      else s.setPort k { p with failed := p.failed + 1 })
  | _ => .next s

/-- A port goes down after the last replay has failed: writes in flight on it are discarded, reads through it are poisoned from now on,
and firmware is told. -/
def execPortDown (s : State) : Host.Outcome State Fault Refusal :=
  atPosition s fun k =>
    let p := s.port k
    if portCount ≤ k || p.down || decide (p.failed < flitFailures) then s
    else
      let s := s.setPort k { p with down := true }
      let (s, c) := { s with pend := s.pend.filter fun w => peerOf w.address != some k }.popChoice
      s.monitorEvent (c % 4)

/-! Requests of a peer (R389). -/

/-- A page holds the byte: in its frame, in the new frame of its migration, or in a replica. -/
def State.pageHolds (s : State) (e companion : Entry) (pa : Nat) : Bool :=
  let n := 2 ^ sizeShift (Entry.size e)
  let within (first frame : Nat) : Bool := decide (first ≤ frame) && decide (frame < first + n)
  within (Entry.frame e) (pa / 2 ^ 16) || (Entry.migrating e && within (bitsAt companion.toNat 92 36) (pa / 2 ^ 16)) ||
    s.replicas.any fun r => r.2 == pa / 2 ^ 16 + 1 && within (Entry.frame e) (r.1 % 2 ^ 40)

/-- A page of covered or protected class holds the byte. A valid entry's first byte is not zero, so memory lists it. -/
def State.classRefused (s : State) (pa : Nat) : Bool :=
  s.mem.any fun c =>
    s.holdsEntry c.1 &&
    let e : Entry := BitVec.ofNat 128 (s.memNat c.1 16)
    Entry.valid e && (Entry.cls e == 1 || Entry.cls e == 3) && s.pageHolds e (BitVec.ofNat 128 (s.memNat (c.1 + 16) 16)) pa

/-- A peer may reach the byte: Dolevo memory that firmware has granted, of an ordinary or hashed page. -/
def State.peerMay (s : State) (pa : Nat) : Bool :=
  pa < 2 ^ 39 && s.grants.get false (pa / 2 ^ 16) && !(s.classRefused pa)

def State.peerMayAll (s : State) (pa n : Nat) : Bool := (List.range n).all fun k => s.peerMay (pa + k)

/-- An atomic of a peer on `n` bytes: the old value; none on poison, or where it is not one of R247's. -/
def State.peerAtomic (s : State) (pa n fn b c : Nat) : State :=
  match Amo.ofCode fn with
  | none => s
  | some op =>
    let (s, old) := s.outsideRead pa n
    let w := 8 * n
    if s.poisonIn outside pa pa n then { s with peerData := some old }
    else { ((op.apply w (ofBytes old) (b % 2 ^ w) (c % 2 ^ w)).1.elim s fun v => s.outsideWrite pa (toBytes n v)) with peerData := some old }

def execBrynedRequest (s : State) : Host.Outcome State Fault Refusal :=
  match s.arg with
  | .peer k req => .next (
      let p := s.port k
      if portCount ≤ k || p.down then s
      else
        let refused := s.setPort k { p with errors := p.errors + 1 }
        match req with
        | .read pa n =>
          if s.peerMayAll pa n then
            let (s, b) := s.outsideRead pa n
            { s with peerData := some b }
          else { refused with peerData := some (List.replicate n 0xFF) }
        | .write pa bytes => if s.peerMayAll pa bytes.length then s.outsideWrite pa bytes else refused
        | .atomic pa wide fn b c =>
          let n := if wide then 8 else 4
          if s.peerMayAll pa n && pa % n == 0 then s.peerAtomic pa n fn b c
          else { refused with peerData := some (List.replicate n 0xFF) })
  | _ => .next s

end Sys2Proof.Machine
end

