-- ==== Sys2Proof/Machine/Objects.lean ====
section
/-!
DEFINITION. Page-table entries that firmware writes, and the loading of code objects (02:R27; 03:R56, R62, R63; 12:R227;
24:R399 to R402). How the fields of a table entry follow one another where R400 gives only their widths, and that names end
with a zero byte, is presumed (notes/assumptions/24.md).
-/

namespace Sys2Proof.Machine

/-! Mapping a page (R227). -/

/-- The first bucket with a free entry, from `b` on, and the entry. -/
def State.freeEntry (s : State) : Nat → Nat → Option (Nat × Nat)
  | 0, _ => none
  | fuel + 1, b =>
    match (List.range 8).find? fun j => (s.entryAt b j).free with
    | some j => some (b, j)
    | none => s.freeEntry fuel ((b + 1) % 2 ^ s.ptlog2)

/-- Write an entry where a walk for its key finds it, if one of the eight buckets has room; the write leaves no poison there (R214). -/
def State.mapEntry (s : State) (e : BitVec 128) : Option State :=
  (s.freeEntry 8 (s.firstBucket (Entry.size e) (BitVec.ofNat 12 (Entry.asid e)) (Entry.vpn e))).map fun p =>
    ((s.settleAll (s.entryAddr p.1 p.2) 16).markWrite (s.entryAddr p.1 p.2) 16 false).setMemBytes (s.entryAddr p.1 p.2) (toBytes 16 e.toNat)

/-- An entry for a 64 KiB page of ordinary class. -/
def pageEntry (asid : Asid) (vpn frame : Nat) (w x : Bool) : BitVec 128 :=
  BitVec.ofNat 128 (asid.toNat * 2 ^ 116 + vpn % 2 ^ 40 * 2 ^ 76 + frame % 2 ^ 36 * 2 ^ 40 + 2 ^ 35 + (if w then 2 ^ 34 else 0) +
    (if x then 2 ^ 33 else 0) + 1)

/-! The tables of an object (R399, R400). -/

/-- A number of an object file. -/
def fieldAt (o : List Byte) (at_ n : Nat) : Nat := ofBytes ((o.drop at_).take n)

structure ObjSection where
  kind : Nat
  align : Nat
  bytes : List Byte
  deriving DecidableEq, Repr

structure ObjSymbol where
  name : List Byte
  sec : Nat
  bind : Nat
  value : Nat
  digest : Nat
  deriving DecidableEq, Repr

structure ObjReloc where
  sec : Nat
  kind : Nat
  sym : Nat
  place : Nat
  addend : Int
  deriving DecidableEq, Repr

structure ObjTask where
  sym : Nat
  stack : Nat
  attributes : Word
  deriving DecidableEq, Repr

structure Object where
  version : Nat
  magic : Nat
  mmrev : Nat
  reserved : Nat
  features : Nat
  sections : List ObjSection
  symbols : List ObjSymbol
  relocs : List ObjReloc
  tasks : List ObjTask
  /-- OPC, FN and count of slots of each retired use. -/
  retired : List (Nat × Nat × Nat)
  deriving DecidableEq, Repr

/-- Count and offset of table `t`. -/
def tableOf (o : List Byte) (t : Nat) : Nat × Nat := (fieldAt o (0x14 + 8 * t) 4, fieldAt o (0x10 + 8 * t) 4)

/-- The entries of table `t`, each read at its offset. -/
def entriesOf {α : Type} (o : List Byte) (t size : Nat) (f : Nat → α) : List α :=
  (List.range (tableOf o t).1).map fun k => f ((tableOf o t).2 + size * k)

def nameAt (o : List Byte) (at_ : Nat) : List Byte := ((o.drop ((tableOf o 5).2 + at_))).takeWhile (· != 0)

def parseObject (o : List Byte) : Object :=
  { magic := fieldAt o 0 4, version := fieldAt o 4 2, mmrev := fieldAt o 6 1 % 4, reserved := fieldAt o 6 2 / 4
    features := fieldAt o 8 8
    sections := entriesOf o 0 32 fun a =>
      { kind := fieldAt o a 1, align := fieldAt o (a + 1) 1, bytes := (o.drop (fieldAt o (a + 16) 8)).take (fieldAt o (a + 8) 8) }
    symbols := entriesOf o 1 64 fun a =>
      { name := nameAt o (fieldAt o a 4), sec := fieldAt o (a + 4) 2, bind := fieldAt o (a + 6) 1, value := fieldAt o (a + 8) 8
        digest := fieldAt o (a + 16) 32 }
    relocs := entriesOf o 2 24 fun a =>
      { sec := fieldAt o a 2, kind := fieldAt o (a + 2) 1, sym := fieldAt o (a + 4) 4, place := fieldAt o (a + 8) 8
        addend := toSigned 64 (fieldAt o (a + 16) 8) }
    tasks := entriesOf o 3 32 fun a => { sym := fieldAt o a 4, stack := 16 * fieldAt o (a + 4) 2, attributes := word (fieldAt o (a + 8) 8) }
    retired := entriesOf o 4 8 fun a => (fieldAt o a 1, fieldAt o (a + 1) 1, fieldAt o (a + 4) 4) }

/-- The features that this device provides (R401). -/
def featuresProvided : Nat := 0x3F

/-- The header and the retired uses are accepted (R402). -/
def Object.headerOk (o : Object) : Bool :=
  o.magic == 0x31434F41 && o.version == 1 && (o.mmrev == 1 || o.mmrev == 2) && o.reserved == 0 &&
  Nat.land o.features featuresProvided == o.features && !(o.retired.any fun r => r.1 == 0xE0 && r.2.1 == 0x02)

/-! Symbols (R402). -/

def State.symbolsOf (s : State) (asid : Asid) : List Symbol := ((s.symbols.find? (·.1 == asid)).map (·.2)).getD []

/-- Where a symbol that the object defines stands: R400 gives no base of its value, and it is taken relative to the symbol's section
(DESIGN CHOICE, notes/assumptions/81.md). -/
def placedValue (bases : List (Word × Nat)) (y : ObjSymbol) : Word := ((bases[y.sec]?).elim 0 (·.1)) + word y.value

/-- The object defines the symbol: it names one of the object's sections. R400 gives no code for a symbol that is not defined, and any
other section index is taken for it (DESIGN CHOICE, notes/assumptions/81.md). -/
def Object.defined (o : Object) (y : ObjSymbol) : Bool := y.sec < o.sections.length

/-- A symbol of the object against one of the same name that the context holds: none for a duplicate that is refused, else
whether the object's definition replaces it. -/
def supersedes (old : Symbol) (y : ObjSymbol) : Option Bool :=
  if y.bind = 2 then some false
  else if old.bind = 2 then some true
  else if old.bind = 3 && y.bind == 3 && old.digest == y.digest then some false
  else none

/-- The context's symbols after the object's visible definitions; none when one is refused. -/
def mergeSymbols (bases : List (Word × Nat)) (o : Object) : List ObjSymbol → List Symbol → Option (List Symbol)
  | [], l => some l
  | y :: rest, l =>
    if y.bind = 0 || !o.defined y then mergeSymbols bases o rest l
    else
      let new : Symbol := { name := y.name, kind := ((o.sections[y.sec]?).elim 0 (·.kind)), bind := y.bind,
                            value := placedValue bases y, digest := y.digest }
      match l.find? (·.name == y.name) with
      | none => mergeSymbols bases o rest (new :: l)
      | some old =>
        match supersedes old y with
        | none => none
        | some true => mergeSymbols bases o rest (new :: l.filter (·.name != y.name))
        | some false => mergeSymbols bases o rest l

/-- The value that a relocation's symbol resolves to: a local label's own, else the context's. -/
def resolve (bases : List (Word × Nat)) (o : Object) (symbols : List Symbol) (k : Nat) : Option Word :=
  match o.symbols[k]? with
  | none => none
  | some y =>
    if y.bind = 0 && o.defined y then some (placedValue bases y)
    else (symbols.find? (·.name == y.name)).map (·.value)

/-- What the context keeps of an object beside its symbols; a task's entry is its symbol's value (R57, R400). -/
def Object.loaded (o : Object) (bases : List (Word × Nat)) (symbols : List Symbol) : LoadedObject :=
  { mmrev := o.mmrev, features := o.features, retired := o.retired
    tasks := o.tasks.map fun t =>
      { name := (o.symbols[t.sym]?).elim [] (·.name), entry := (resolve bases o symbols t.sym).getD 0, stack := t.stack
        attributes := t.attributes } }

/-! Relocations (R63). -/

/-- Replace the bytes from `at_` on. -/
def patchBytes (l : List Byte) (at_ : Nat) (new : List Byte) : List Byte := l.take at_ ++ new ++ l.drop (at_ + new.length)

/-- The line word with its parity made good (R27, R62); its reserved bits are written as zero (DESIGN CHOICE, notes/assumptions/81.md). -/
def repairParity (line : List Byte) : List Byte :=
  let v := ofBytes line
  let w := v / 2 ^ 480 % 2 ^ 9
  let spar := (List.range 5).foldl (fun acc k => acc + popCount 96 (v / 2 ^ (96 * k)) % 2 * 2 ^ (9 + k)) 0
  let w := w + spar
  patchBytes line 60 (toBytes 4 (w + popCount 14 w % 2 * 2 ^ 14))

/-- Patch the low 32 bits of the slot at a relative PC, and the parity of its line. -/
def patchSlot (l : List Byte) (pc v : Nat) : List Byte :=
  let line := pc / 64 * 64
  let l := patchBytes l (line + 12 * (pc % 64)) (toBytes 4 v)
  patchBytes l line (repairParity ((l.drop line).take 64))

/-- A relocation's field and value (R63); none for a load-time error, among which the model counts a KIND that R63 does not list (DESIGN
CHOICE, notes/assumptions/97.md). `p` is the place in memory. -/
def relocate (kind : Nat) (v : Word) (addend : Int) (p : Word) : Option Nat :=
  let x := v + BitVec.ofInt 64 addend
  let i := (v.toNat : Int) + addend
  match kind with
  | 1 =>
    let d := ((x.toNat / 64 : Nat) : Int) - ((p.toNat / 64 : Nat) : Int)
    if decide (-(2 ^ 28) ≤ d) && decide (d < 2 ^ 28) && x.toNat % 8 ≤ 4 then some (ofSigned 29 d * 8 + x.toNat % 8) else none
  | 2 => some (x.toNat % 2 ^ 32)
  | 3 => some (x.toNat / 2 ^ 32)
  | 4 => if decide (-(2 ^ 31) ≤ i) && decide (i < 2 ^ 31) then some (ofSigned 32 i) else none
  | 5 => some x.toNat
  | 6 => if decide (-(2 ^ 31) ≤ i) && decide (i < 2 ^ 32) then some (ofSigned 32 i) else none
  | _ => none

/-- Apply one relocation to the sections' bytes. R63 gives no load-time error for a place outside its section, or at a slot number that a line
does not have: the bytes go where the place says, and lengthen the image. A section index outside the table refuses the load, and KIND
alone says how the bytes are patched, whatever section they are in (DESIGN CHOICE, notes/assumptions/97.md). -/
def applyReloc (bases : List (Word × Nat)) (o : Object) (symbols : List Symbol) (images : List (List Byte)) (r : ObjReloc) :
    Option (List (List Byte)) := do
  let v ← resolve bases o symbols r.sym
  let base ← bases[r.sec]?
  let image ← images[r.sec]?
  let x ← relocate r.kind v r.addend (base.1 + word r.place)
  return images.set r.sec (
    if r.kind ≤ 4 then patchSlot image r.place x
    else patchBytes image r.place (toBytes (if r.kind = 5 then 8 else 4) x))

/-! Loading (R402). -/

/-- The placement that firmware chose holds each section: page-aligned, inside the translated space, frames of Dolevo memory. -/
def placementOk (o : Object) (bases : List (Word × Nat)) : Bool :=
  bases.length == o.sections.length &&
  (o.sections.zip bases).all fun p =>
    p.2.1.toNat % 65536 == 0 && p.2.1.toNat % 2 ^ p.1.align == 0 && p.2.1.toNat != 0 &&
    decide (p.2.1.toNat + p.1.bytes.length < 0x00FFFF0000000000) && decide (p.2.2 + p.1.bytes.length / 65536 < 0x800000) &&
    (p.1.kind != 1 || decide (6 ≤ p.1.align)) && decide (1 ≤ p.1.kind) && decide (p.1.kind ≤ 3)

/-- Write one section into its frames and map its pages. -/
def State.placeSection (s : State) (asid : Asid) (kind : Nat) (bytes : List Byte) (base : Word) (frame : Nat) : Option State :=
  let at_ := frame * 65536
  let s := ((s.settleAll at_ bytes.length).markWrite at_ bytes.length false).setMemBytes at_ bytes
  (List.range (ceilDiv bytes.length 65536)).foldlM (fun s k =>
    s.mapEntry (pageEntry asid (base.toNat / 65536 + k) (frame + k) (kind == 2) (kind == 1))) s

/-- Load an object whole; none when it is refused. -/
def State.loadObject (s : State) (asid : Asid) (file : List Byte) (bases : List (Word × Nat)) : Option State := do
  let o := parseObject file
  if !(o.headerOk && placementOk o bases) then none
  let symbols ← mergeSymbols bases o o.symbols (s.symbolsOf asid)
  let images ← o.relocs.foldlM (applyReloc bases o symbols) (o.sections.map (·.bytes))
  let s ← ((o.sections.zip images).zip bases).foldlM
    (fun s p => s.placeSection asid p.1.1.kind p.1.2 p.2.1 p.2.2) s
  return { s with
    symbols := (asid, symbols) :: s.symbols.filter (·.1 != asid)
    objects := (asid, o.loaded bases symbols) :: s.objects }

def execCodeObjectLoad (s : State) : Host.Outcome State Fault Refusal :=
  match s.arg with
  | .object asid file bases => .next ((s.loadObject asid file bases).getD s)
  | _ => .next s

end Sys2Proof.Machine
end

