-- ==== Sys2Proof/Machine/Scalar.lean ====
section
/-!
DEFINITION. The scalar instructions of OPC 0x00 to 0x03 (02:R42; 04:R64 to R70).
-/

namespace Sys2Proof.Machine

/-- A scalar instruction reads its sources and writes x[D]; the unit that owns D executes it (R11, R65). One whose D is x0
changes nothing (R67). -/
def scalarOp (i : Instr) (d : Reg) (srcs : List Reg) (f : Hart → Word) (s : State) : Host.Outcome State Fault Refusal :=
  finishNext i (modHart fun h =>
    if d = 0 then h else ((if d.toNat < 32 then h.auRead srcs else h).setX d (f h))) s

/-- Two sources (R65). -/
def scalar2 (i : Instr) (o : GOp) (f : Word → Word → Word) (s : State) : Host.Outcome State Fault Refusal :=
  scalarOp i o.d [o.a, o.b] (fun h => f (h.getX o.a) (h.getX o.b)) s

/-- A source and the sign-extended immediate (R68). -/
def scalarImm (i : Instr) (o : GOp) (f : Word → Word → Word) (s : State) : Host.Outcome State Fault Refusal :=
  scalarOp i o.d [o.a] (fun h => f (h.getX o.a) (sext32 o.imm)) s

/-- A source and a shift amount or bit field (R68, R70). -/
def scalarAmount (i : Instr) (o : GOp) (f : Word → Nat → Word) (s : State) : Host.Outcome State Fault Refusal :=
  scalarOp i o.d [o.a] (fun h => f (h.getX o.a) o.imm.toNat) s

/-- 1 when the condition holds, else 0. -/
def flagWord (b : Bool) : Word := if b then 1 else 0

/-- NOP changes no state besides the PC (R42). -/
def execNop (s : State) : Host.Outcome State Fault Refusal := finishNext .nop (pure ()) s

def execAdd (o : GOp) (s : State) := scalar2 (.add o) o (fun a b => a + b) s
def execSub (o : GOp) (s : State) := scalar2 (.sub o) o (fun a b => a - b) s
def execAnd (o : GOp) (s : State) := scalar2 (.and o) o (fun a b => a &&& b) s
def execOr (o : GOp) (s : State) := scalar2 (.or o) o (fun a b => a ||| b) s
def execXor (o : GOp) (s : State) := scalar2 (.xor o) o (fun a b => a ^^^ b) s
def execAndn (o : GOp) (s : State) := scalar2 (.andn o) o (fun a b => a &&& ~~~b) s

/-- A shift amount in a register: its low six bits (R65). -/
def amountOf (b : Word) : Nat := b.toNat % 64

def execSll (o : GOp) (s : State) := scalar2 (.sll o) o (fun a b => a <<< amountOf b) s
def execSrl (o : GOp) (s : State) := scalar2 (.srl o) o (fun a b => a >>> amountOf b) s
def execSra (o : GOp) (s : State) := scalar2 (.sra o) o (fun a b => a.sshiftRight (amountOf b)) s
def execRol (o : GOp) (s : State) := scalar2 (.rol o) o (fun a b => a.rotateLeft (amountOf b)) s
def execRor (o : GOp) (s : State) := scalar2 (.ror o) o (fun a b => a.rotateRight (amountOf b)) s
def execSlt (o : GOp) (s : State) := scalar2 (.slt o) o (fun a b => flagWord (a.slt b)) s
def execSltu (o : GOp) (s : State) := scalar2 (.sltu o) o (fun a b => flagWord (a.ult b)) s
def execMin (o : GOp) (s : State) := scalar2 (.min o) o (fun a b => if a.slt b then a else b) s
def execMax (o : GOp) (s : State) := scalar2 (.max o) o (fun a b => if a.slt b then b else a) s
def execMinu (o : GOp) (s : State) := scalar2 (.minu o) o (fun a b => if a.ult b then a else b) s
def execMaxu (o : GOp) (s : State) := scalar2 (.maxu o) o (fun a b => if a.ult b then b else a) s
def execMul (o : GOp) (s : State) := scalar2 (.mul o) o (fun a b => a * b) s

/-- Bits [127:64] of the exact signed product (R65). -/
def mulHigh (a b : Word) : Word := BitVec.ofInt 64 (a.toInt * b.toInt / 2 ^ 64)

/-- Bits [127:64] of the exact unsigned product (R65). -/
def mulHighU (a b : Word) : Word := BitVec.ofNat 64 (a.toNat * b.toNat / 2 ^ 64)

def execMulh (o : GOp) (s : State) := scalar2 (.mulh o) o mulHigh s
def execMulhu (o : GOp) (s : State) := scalar2 (.mulhu o) o mulHighU s

/-- Division truncated towards zero, with the two cases of R66 that have no quotient. -/
def divSigned (a b : Word) : Word :=
  if b = 0 then -1 else BitVec.ofInt 64 (a.toInt.tdiv b.toInt)
def divUnsigned (a b : Word) : Word := if b = 0 then -1 else BitVec.ofNat 64 (a.toNat / b.toNat)
def remSigned (a b : Word) : Word := if b = 0 then a else BitVec.ofInt 64 (a.toInt.tmod b.toInt)
def remUnsigned (a b : Word) : Word := if b = 0 then a else BitVec.ofNat 64 (a.toNat % b.toNat)

def execDiv (o : GOp) (s : State) := scalar2 (.div o) o divSigned s
def execDivu (o : GOp) (s : State) := scalar2 (.divu o) o divUnsigned s
def execRem (o : GOp) (s : State) := scalar2 (.rem o) o remSigned s
def execRemu (o : GOp) (s : State) := scalar2 (.remu o) o remUnsigned s

/-- Zero bits above the highest set bit (R65). -/
def leadingZeros (a : Word) : Word := word (64 - (if a = 0 then 0 else a.toNat.log2 + 1))

/-- Zero bits below the lowest set bit (R65). -/
def trailingZeros (a : Word) : Word :=
  word (((List.range 64).find? fun k => a.getLsbD k).getD 64)

def countOnes (a : Word) : Word := word (popCount 64 a.toNat)

def scalar1 (i : Instr) (o : GOp) (f : Word → Word) (s : State) : Host.Outcome State Fault Refusal :=
  scalarOp i o.d [o.a] (fun h => f (h.getX o.a)) s

def execClz (o : GOp) (s : State) := scalar1 (.clz o) o leadingZeros s
def execCtz (o : GOp) (s : State) := scalar1 (.ctz o) o trailingZeros s
def execCpop (o : GOp) (s : State) := scalar1 (.cpop o) o countOnes s

/-- a if c ≠ 0, else b (R65). -/
def execSel (o : GOp) (s : State) : Host.Outcome State Fault Refusal :=
  scalarOp (.sel o) o.d [o.a, o.b, o.c] (fun h => if h.getX o.c ≠ 0 then h.getX o.a else h.getX o.b) s

def execAddi (o : GOp) (s : State) := scalarImm (.addi o) o (fun a i => a + i) s
def execAndi (o : GOp) (s : State) := scalarImm (.andi o) o (fun a i => a &&& i) s
def execOri (o : GOp) (s : State) := scalarImm (.ori o) o (fun a i => a ||| i) s
def execXori (o : GOp) (s : State) := scalarImm (.xori o) o (fun a i => a ^^^ i) s
def execSlli (o : GOp) (s : State) := scalarAmount (.slli o) o (fun a n => a <<< n) s
def execSrli (o : GOp) (s : State) := scalarAmount (.srli o) o (fun a n => a >>> n) s
def execSrai (o : GOp) (s : State) := scalarAmount (.srai o) o (fun a n => a.sshiftRight n) s
def execSlti (o : GOp) (s : State) := scalarImm (.slti o) o (fun a i => flagWord (a.slt i)) s
def execSltiu (o : GOp) (s : State) := scalarImm (.sltiu o) o (fun a i => flagWord (a.ult i)) s
def execMuli (o : GOp) (s : State) := scalarImm (.muli o) o (fun a i => a * i) s

/-- LI writes the sign-extended immediate (R68, R69). -/
def execLi (o : GOp) (s : State) : Host.Outcome State Fault Refusal :=
  scalarOp (.li o) o.d [] (fun _ => sext32 o.imm) s

/-- LIHI replaces the upper half (R68, R69). -/
def execLihi (o : GOp) (s : State) : Host.Outcome State Fault Refusal :=
  scalarOp (.lihi o) o.d [o.a]
    (fun h => (h.getX o.a &&& 0xFFFFFFFF) ||| (o.imm.setWidth 64 <<< 32)) s

/-- (a ≪ SH) + b (R70). -/
def execShadd (o : GOp) (s : State) : Host.Outcome State Fault Refusal :=
  scalarOp (.shadd o) o.d [o.a, o.b] (fun h => (h.getX o.a <<< (o.imm.toNat % 8)) + h.getX o.b) s

/-- POS and LEN of a bit field (R70). -/
def fieldPos (imm : BitVec 32) : Nat := imm.toNat % 64
def fieldLen (imm : BitVec 32) : Nat := imm.toNat / 256 % 128

def bitField (a : Word) (imm : BitVec 32) : Word := word (bitsAt a.toNat (fieldPos imm) (fieldLen imm))

def bitFieldSigned (a : Word) (imm : BitVec 32) : Word :=
  BitVec.ofInt 64 (toSigned (fieldLen imm) (bitsAt a.toNat (fieldPos imm) (fieldLen imm)))

def bitFieldInsert (d a : Word) (imm : BitVec 32) : Word :=
  word (putBits d.toNat (fieldPos imm) (fieldLen imm) a.toNat)

def execBfx (o : GOp) (s : State) := scalar1 (.bfx o) o (fun a => bitField a o.imm) s
def execBfxs (o : GOp) (s : State) := scalar1 (.bfxs o) o (fun a => bitFieldSigned a o.imm) s

/-- BFI reads x[D] as a third source (R70). -/
def execBfi (o : GOp) (s : State) : Host.Outcome State Fault Refusal :=
  scalarOp (.bfi o) o.d [o.a, o.d] (fun h => bitFieldInsert (h.getX o.d) (h.getX o.a) o.imm) s

end Sys2Proof.Machine
end

