-- ==== Sys2Proof/Machine/VectorFp.lean ====
section
/-!
DEFINITION. Floating-point vector arithmetic and the conversions, OPC 0x43 and 0x44 (06:R110; 07:R129 to R135).
-/

namespace Sys2Proof.Machine

/-- An element-wise floating-point instruction (R129): `useC` when field C names a third source, `f mode n a b c` the exact
result and its flags, `n` the sign bit of b. -/
def vfpSigned (i : Instr) (o : GOp) (useC : Bool) (f : Mode → Bool → Val → Val → Val → Val × Flags) (s : State) :
    Host.Outcome State Fault Refusal :=
  finishNext i (vectorOp (fun c => isFp c.fmt) (fun c => [Opd.of o.d c.g])
    (fun c => Opd.of o.a c.g :: (bOpd o c.g ++ if useC then [Opd.of o.c c.g] else [])) fun c => do
      let s ← get
      let own := s.hart.own
      let a := own.group o.a.toNat c.g
      let b := own.group o.b.toNat c.g
      let z := own.group o.c.toNat c.g
      let d := own.group o.d.toNat c.g
      let mode := s.hart.csr.modeOf o.fl.toNat
      setGroup o.d c.g (mapElems c c.w c.vlmax (s.hart.selected o.msk.toNat) (o.mz == 1) d fun e =>
        let (y, fl) := f mode ((s.bElem c o b e).testBit (c.w - 1)) (own.elem c o.a.toNat a e) (s.bValue c o b e)
          (own.elem c o.c.toNat z e)
        let (bits, fl') := putFp c.fmt c.scl (own.exponent o.d.toNat c.w e) (s.hart.csr.rnd mode e) false y
        (bits, fl ||| fl'))) s

/-- The members whose result depends on values alone. -/
def vfp (i : Instr) (o : GOp) (useC : Bool) (f : Mode → Val → Val → Val → Val × Flags) (s : State) :
    Host.Outcome State Fault Refusal := vfpSigned i o useC (fun m _ => f m) s

/-- One source: B is zero (R129). Of VFABS and VFNEG the sign operation sets no flag (R130), and the rounding to a destination of another
block scale sets its own (R117; DEDUCED, notes/assumptions/114.md). -/
def vfp1 (i : Instr) (o : GOp) (f : Val → Val × Flags) (s : State) : Host.Outcome State Fault Refusal :=
  finishNext i (vectorOp (fun c => isFp c.fmt) (fun c => [Opd.of o.d c.g]) (fun c => [Opd.of o.a c.g]) fun c => do
      let s ← get
      let own := s.hart.own
      let a := own.group o.a.toNat c.g
      let d := own.group o.d.toNat c.g
      let mode := s.hart.csr.modeOf o.fl.toNat
      setGroup o.d c.g (mapElems c c.w c.vlmax (s.hart.selected o.msk.toNat) (o.mz == 1) d fun e =>
        let (y, fl) := f (own.elem c o.a.toNat a e)
        let (bits, fl') := putFp c.fmt c.scl (own.exponent o.d.toNat c.w e) (s.hart.csr.rnd mode e) false y
        (bits, fl ||| fl'))) s

def execVfadd (o : GOp) (s : State) := vfp (.vfadd o) o false (fun m a b _ => a.add m b) s
def execVfsub (o : GOp) (s : State) := vfp (.vfsub o) o false (fun m a b _ => a.add m b.negate) s
def execVfmul (o : GOp) (s : State) := vfp (.vfmul o) o false (fun _ a b _ => a.mul b) s
def execVfdiv (o : GOp) (s : State) := vfp (.vfdiv o) o false (fun _ a b _ => a.div b) s
def execVfmin (o : GOp) (s : State) := vfp (.vfmin o) o false (fun _ a b _ => a.minmax false b) s
def execVfmax (o : GOp) (s : State) := vfp (.vfmax o) o false (fun _ a b _ => a.minmax true b) s
def execVfma (o : GOp) (s : State) := vfp (.vfma o) o true (fun m a b c => a.fma m b c) s
def execVfms (o : GOp) (s : State) := vfp (.vfms o) o true (fun m a b c => a.fma m b c.negate) s
def execVfnma (o : GOp) (s : State) := vfp (.vfnma o) o true (fun m a b c => a.negate.fma m b c) s
/-- |a| with the sign of b (R129, R130): the sign bit of b's encoding, also where b is a NaN (R104). DEDUCED: notes/assumptions/18.md. -/
def execVfsgnj (o : GOp) (s : State) := vfpSigned (.vfsgnj o) o false (fun _ n a _ _ => (a.withSign n, 0)) s
def execVfsqrt (o : GOp) (s : State) := vfp1 (.vfsqrt o) o Val.sqrt s
def execVfabs (o : GOp) (s : State) := vfp1 (.vfabs o) o (fun a => (a.abs, 0)) s
def execVfneg (o : GOp) (s : State) := vfp1 (.vfneg o) o (fun a => (a.negate, 0)) s
def execVfexp2 (o : GOp) (s : State) := vfp1 (.vfexp2 o) o Val.exp2 s

/-- The class code of an encoding (R131). -/
def classCode (f : FpFmt) (bits : Nat) : Nat :=
  match f.value bits with
  | .nan signalling => if signalling then 8 else 9
  | .inf neg => if neg then 0 else 7
  | .fin neg m _ =>
    if m = 0 then (if neg then 3 else 4)
    else if m < 2 ^ f.t then (if neg then 2 else 5)
    else if neg then 1 else 6

def execVfclass (o : GOp) (s : State) : Host.Outcome State Fault Refusal :=
  finishNext (.vfclass o) (vectorOp (fun c => isFp c.fmt) (fun c => [Opd.of o.d c.g]) (fun c => [Opd.of o.a c.g]) fun c => do
    let s ← get
    let a := s.hart.own.group o.a.toNat c.g
    let d := s.hart.own.group o.d.toNat c.g
    setGroup o.d c.g (mapElems c c.w c.vlmax (s.hart.selected o.msk.toNat) (o.mz == 1) d fun e =>
      (classCode (fpOf c.fmt) (elemAt c.w a e), 0))) s

/-! Conversions (R132). -/

/-- What a conversion's X selects. -/
structure Conv where
  target : Nat
  sat : Bool
  dscl : Bool
  deriving DecidableEq, Repr

def convOf (x : BitVec 16) : Conv := { target := x.toNat % 32, sat := x.getLsbD 5, dscl := x.getLsbD 6 }

/-- The destination group of a conversion, at least one register. -/
def Cfg.convGroup (c : Cfg) (t : Nat) : Nat := max 1 (c.groupOf (container t))

/-- The limits of R132 on the destination group. -/
def Cfg.convOk (c : Cfg) (t : Nat) (d a : Reg) : Bool :=
  c.groupOf (container t) ≤ 8 &&
  ((container t == c.w && d == a) || (Opd.of d (c.convGroup t)).disjoint (Opd.of a c.g))

/-- Integer to integer (R133). -/
def convInt (cs : Nat) (signed : Bool) (cd t : Nat) (sat : Bool) (bits : Nat) : Nat × Flags :=
  let v : Int := if signed then toSigned cs bits else (bits % 2 ^ cs : Nat)
  if cd < cs ∧ sat then satInt cd (isSignedInt t) v else (ofSigned cd v, 0)

/-- One element of VCVT (R133): the source's bits and value, the destination's exponent. -/
def convElem (c : Cfg) (v : Conv) (rnd : Rnd) (x : Int) (bits : Nat) (a : Val) : Nat × Flags :=
  let t := v.target
  if isFp t then
    let (y, fl) := putFp t v.dscl x rnd v.sat a
    (y, fl ||| nvOf [a])
  else if isFp c.fmt then toInteger (container t) (isSignedInt t) rnd a
  else convInt c.w (isSignedInt c.fmt) (container t) t v.sat bits

/-- A conversion whose elements depend each on one element of the source (R132). -/
def convert (i : Instr) (o : GOp) (source : Nat → Bool) (s : State) : Host.Outcome State Fault Refusal :=
  let v := convOf o.x
  let cd := container v.target
  finishNext i (vectorOp (fun c => source c.fmt && c.convOk v.target o.d o.a)
    (fun c => [Opd.of o.d (c.convGroup v.target)]) (fun c => [Opd.of o.a c.g]) fun c => do
      let s ← get
      let own := s.hart.own
      let g := c.convGroup v.target
      let a := own.group o.a.toNat c.g
      let d := own.group o.d.toNat g
      let mode := s.hart.csr.modeOf o.fl.toNat
      setGroup o.d g (mapElems c cd (elemsOf g cd) (s.hart.selected o.msk.toNat) (o.mz == 1) d fun e =>
        convElem c v (s.hart.csr.rnd mode e) (own.exponent o.d.toNat cd e) (elemAt c.w a e)
          (own.elem c o.a.toNat a e))) s

/-- VCVT takes any source but BFP (R133). -/
def execVcvt (o : GOp) (s : State) := convert (.vcvt o) o (fun f => isDefined f && !isBfp f) s

/-- VCVTFBP takes a block floating-point source (R135). -/
def execVcvtfbp (o : GOp) (s : State) := convert (.vcvtfbp o) o isBfp s

/-- The exponent of a block from its active elements, and whether it was clamped at 127 or raised to −128 (R110). -/
def blockExponent (vals : List Val) : Int × Bool × Bool :=
  let exps : List Int := vals.filterMap fun v =>
    match v with
    | .fin _ m e => if m = 0 then none else some (e + bitLength m)
    | _ => none
  match exps with
  | [] => (-128, false, false)
  | x :: rest =>
    let top := rest.foldl max x
    if 127 < top then (127, true, false) else if top < -128 then (-128, false, true) else (top, false, false)

/-- One mantissa of a block (R110). -/
def bfpElem (k : Nat) (x : Int) (raised : Bool) (rnd : Rnd) (v : Val) : Nat × Flags :=
  match v with
  | .nan _ => (0, Flags.nv)
  | .inf neg => (ofSigned k (if neg then intMin k true else intMax k true), Flags.nv)
  | .fin n m e =>
    let (y, fl) := toIntegerSat k true rnd (.fin n m (e + ((k - 1 : Nat) - x)))
    (y, fl ||| Flags.when_ (raised && m != 0 && fl &&& Flags.nx != 0) Flags.underflow)

/-- VCVTBFP quantises each block of 32 elements (R110, R134). -/
def execVcvtbfp (o : GOp) (s : State) : Host.Outcome State Fault Refusal :=
  let t := (convOf o.x).target
  let cd := container t
  let k := bfpBits t
  finishNext (.vcvtbfp o) (vectorOp (fun c => isFp c.fmt && c.convOk t o.d o.a)
    (fun c => [Opd.of o.d (c.convGroup t)]) (fun c => [Opd.of o.a c.g]) fun c => do
      let s ← get
      let own := s.hart.own
      let g := c.convGroup t
      let a := own.group o.a.toNat c.g
      let d := own.group o.d.toNat g
      let active := s.hart.selected o.msk.toNat
      let mode := s.hart.csr.modeOf o.fl.toNat
      let block (j : Nat) := blockExponent (((List.range 32).filter fun i => decide (32 * j + i < c.vl) && active (32 * j + i)).map
        fun i => own.elem c o.a.toNat a (32 * j + i))
      let total := elemsOf g cd
      let blocks := (List.range (total / 32)).map block
      let at_ (j : Nat) := blocks.getD j (-128, false, false)
      let group := mapElems c cd total active (o.mz == 1) d fun e =>
        let b := at_ (e / 32)
        let (y, fl) := bfpElem k b.1 b.2.2 (s.hart.csr.rnd mode e) (own.elem c o.a.toNat a e)
        (ofSigned cd (toSigned k y), fl)
      let clamped := (List.range (total / 32)).any fun j => decide (32 * j < c.vl) && (at_ j).2.1
      let byte (r j : Nat) : Nat :=
        let b := r * blocksOf cd + j
        if 32 * b < c.vl then ofSigned 8 (at_ b).1 else if c.tailz then 0 else bitsAt (own.scaleReg (o.d.toNat + r)) (8 * j) 8
      setGroup o.d g group
      orFlags (Flags.when_ clamped Flags.overflow)
      modHart fun h => { h with own := (List.range g).foldl (fun f r =>
        f.setScale (o.d.toNat + r) (packElems 8 ((List.range (blocksOf cd)).map (byte r)))) h.own }) s

end Sys2Proof.Machine
end

