-- ==== Sys2Proof/Machine/VectorInt.lean ====
section
/-!
DEFINITION. Integer vector arithmetic and the vector compares, OPC 0x41 and 0x42 (07:R127, R128).
-/

namespace Sys2Proof.Machine

/-- An integer element-wise instruction: `f w a b d` from the containers of A, of the B operand and of D (R127). -/
def vint (i : Instr) (o : GOp) (f : Nat → Nat → Nat → Nat → Nat × Flags) (s : State) : Host.Outcome State Fault Refusal :=
  finishNext i (vectorOp (fun c => isInt c.fmt) (fun c => [Opd.of o.d c.g])
    (fun c => Opd.of o.a c.g :: bOpd o c.g) fun c => do
      let s ← get
      let grp (r : Reg) := s.hart.own.group r.toNat c.g
      let a := grp o.a
      let b := grp o.b
      let d := grp o.d
      setGroup o.d c.g (mapElems c c.w c.vlmax (s.hart.selected o.msk.toNat) (o.mz == 1) d fun e =>
        f c.w (elemAt c.w a e) (s.bElem c o b e) (elemAt c.w d e))) s

/-- A result that sets no flag. -/
def plainInt (f : Nat → Nat → Nat → Nat) (w a b _d : Nat) : Nat × Flags := (f w a b % 2 ^ w, 0)

/-- A result on the signed readings. -/
def signedInt (f : Int → Int → Int) (w a b : Nat) : Nat := ofSigned w (f (toSigned w a) (toSigned w b))

def execVadd (o : GOp) (s : State) := vint (.vadd o) o (plainInt fun _ a b => a + b) s
def execVsub (o : GOp) (s : State) := vint (.vsub o) o (plainInt (signedInt fun a b => a - b)) s
def execVrsub (o : GOp) (s : State) := vint (.vrsub o) o (plainInt (signedInt fun a b => b - a)) s
def execVmul (o : GOp) (s : State) := vint (.vmul o) o (plainInt fun _ a b => a * b) s
def execVmulh (o : GOp) (s : State) :=
  vint (.vmulh o) o (plainInt fun w a b => ofSigned w (toSigned w a * toSigned w b / 2 ^ w)) s
def execVmulhu (o : GOp) (s : State) := vint (.vmulhu o) o (plainInt fun w a b => a * b / 2 ^ w) s
def execVmin (o : GOp) (s : State) := vint (.vmin o) o (plainInt (signedInt min)) s
def execVmax (o : GOp) (s : State) := vint (.vmax o) o (plainInt (signedInt max)) s
def execVminu (o : GOp) (s : State) := vint (.vminu o) o (plainInt fun _ a b => min a b) s
def execVmaxu (o : GOp) (s : State) := vint (.vmaxu o) o (plainInt fun _ a b => max a b) s
def execVand (o : GOp) (s : State) := vint (.vand o) o (plainInt fun _ a b => a &&& b) s
def execVor (o : GOp) (s : State) := vint (.vor o) o (plainInt fun _ a b => a ||| b) s
def execVxor (o : GOp) (s : State) := vint (.vxor o) o (plainInt fun _ a b => a ^^^ b) s
def execVsll (o : GOp) (s : State) := vint (.vsll o) o (plainInt fun w a b => a * 2 ^ (b % w)) s
def execVsrl (o : GOp) (s : State) := vint (.vsrl o) o (plainInt fun w a b => a / 2 ^ (b % w)) s
def execVsra (o : GOp) (s : State) :=
  vint (.vsra o) o (plainInt fun w a b => ofSigned w (toSigned w a / (2 ^ (b % w) : Nat))) s
def execVsadd (o : GOp) (s : State) :=
  vint (.vsadd o) o (fun w a b _ => satInt w true (toSigned w a + toSigned w b)) s
def execVssub (o : GOp) (s : State) :=
  vint (.vssub o) o (fun w a b _ => satInt w true (toSigned w a - toSigned w b)) s
def execVsaddu (o : GOp) (s : State) := vint (.vsaddu o) o (fun w a b _ => satInt w false ((a : Int) + b)) s
def execVssubu (o : GOp) (s : State) := vint (.vssubu o) o (fun w a b _ => satInt w false ((a : Int) - b)) s
/-- VMACC also reads vD (R127). -/
def execVmacc (o : GOp) (s : State) := vint (.vmacc o) o (fun w a b d => ((d + a * b) % 2 ^ w, 0)) s

/-- The divisions of R66 at width w. -/
def divW (w a b : Nat) : Nat :=
  if b = 0 then 2 ^ w - 1 else ofSigned w ((toSigned w a).tdiv (toSigned w b))
def divuW (w a b : Nat) : Nat := if b = 0 then 2 ^ w - 1 else a / b
def remW (w a b : Nat) : Nat := if b = 0 then a else ofSigned w ((toSigned w a).tmod (toSigned w b))
def remuW (_w a b : Nat) : Nat := if b = 0 then a else a % b

def execVdiv (o : GOp) (s : State) := vint (.vdiv o) o (plainInt divW) s
def execVdivu (o : GOp) (s : State) := vint (.vdivu o) o (plainInt divuW) s
def execVrem (o : GOp) (s : State) := vint (.vrem o) o (plainInt remW) s
def execVremu (o : GOp) (s : State) := vint (.vremu o) o (plainInt remuW) s

/-- A compare writes a mask register (R128): `cond` answers the bit and the flags of one element. -/
def vcompare (i : Instr) (o : GOp) (cls : Nat → Bool) (cond : State → Cfg → Nat → Nat → Nat → Bool × Flags) (s : State) :
    Host.Outcome State Fault Refusal :=
  finishNext i (do
    let h := (← get).hart
    vectorOp (fun c => cls c.fmt && h.maskDestOk o.d.toNat) (fun _ => []) (fun c => Opd.of o.a c.g :: bOpd o c.g) fun c => do
      let s ← get
      let a := s.hart.own.group o.a.toNat c.g
      let b := s.hart.own.group o.b.toNat c.g
      let active := s.hart.selected o.msk.toNat
      let m := mapMask c active (o.mz == 1) (s.hart.getM o.d.toNat) fun e => (cond s c a b e).1
      modHart (·.setM o.d.toNat m)
      orFlags ((List.range c.vl).foldl (fun f e => if active e then f ||| (cond s c a b e).2 else f) 0)) s

/-- An integer condition on the containers. -/
def cmpInt (o : GOp) (rel : Nat → Nat → Nat → Bool) (s : State) (c : Cfg) (a b e : Nat) : Bool × Flags :=
  (rel c.w (elemAt c.w a e) (s.bElem c o b e), 0)

/-- A condition on the signed readings. -/
def signedRel (rel : Int → Int → Bool) (w a b : Nat) : Bool := rel (toSigned w a) (toSigned w b)

def execVcmpeq (o : GOp) (s : State) := vcompare (.vcmpeq o) o isInt (cmpInt o fun _ a b => a == b) s
def execVcmpne (o : GOp) (s : State) := vcompare (.vcmpne o) o isInt (cmpInt o fun _ a b => a != b) s
def execVcmplt (o : GOp) (s : State) := vcompare (.vcmplt o) o isInt (cmpInt o (signedRel fun a b => decide (a < b))) s
def execVcmpltu (o : GOp) (s : State) := vcompare (.vcmpltu o) o isInt (cmpInt o fun _ a b => decide (a < b)) s
def execVcmple (o : GOp) (s : State) := vcompare (.vcmple o) o isInt (cmpInt o (signedRel fun a b => decide (a ≤ b))) s
def execVcmpleu (o : GOp) (s : State) := vcompare (.vcmpleu o) o isInt (cmpInt o fun _ a b => decide (a ≤ b)) s
def execVcmpgt (o : GOp) (s : State) := vcompare (.vcmpgt o) o isInt (cmpInt o (signedRel fun a b => decide (b < a))) s
def execVcmpgtu (o : GOp) (s : State) := vcompare (.vcmpgtu o) o isInt (cmpInt o fun _ a b => decide (b < a)) s

/-- A floating-point condition on the scaled values; the flag says which NaNs set NV. -/
def cmpFp (o : GOp) (rel : Val → Val → Bool) (invalid : Val → Bool) (s : State) (c : Cfg) (a b e : Nat) : Bool × Flags :=
  let x := s.hart.own.elem c o.a.toNat a e
  let y := s.bValue c o b e
  (rel x y, Flags.when_ (invalid x || invalid y) Flags.nv)

def execVfcmpeq (o : GOp) (s : State) := vcompare (.vfcmpeq o) o isFp (cmpFp o Val.eq Val.isSignalling) s
def execVfcmplt (o : GOp) (s : State) := vcompare (.vfcmplt o) o isFp (cmpFp o Val.lt Val.isNan) s
def execVfcmple (o : GOp) (s : State) :=
  vcompare (.vfcmple o) o isFp (cmpFp o (fun a b => a.lt b || a.eq b) Val.isNan) s
def execVfcmpun (o : GOp) (s : State) :=
  vcompare (.vfcmpun o) o isFp (cmpFp o (fun a b => a.isNan || b.isNan) fun _ => false) s

end Sys2Proof.Machine
end

