-- ==== Sys2Proof/Machine/VectorMove.lean ====
section
/-!
DEFINITION. Moves and permutes, masks and scales, OPC 0x46 to 0x48 (07:R141 to R144).
-/

namespace Sys2Proof.Machine

/-- Class A for a vector source, class N for a scalar or immediate one (R141). -/
def moveClass (o : GOp) (fmt : Nat) : Bool := if o.form = 0 then isDefined fmt else isInt fmt || isFp fmt

/-- An instruction that writes each active element of vD from the source groups: `f s c a b d` answers element e. -/
def vmove (i : Instr) (o : GOp) (legal : Cfg → Bool) (srcs : Cfg → List Opd)
    (f : State → Cfg → Nat → Nat → Nat → Nat → Nat) (s : State) : Host.Outcome State Fault Refusal :=
  finishNext i (vectorOp legal (fun c => [Opd.of o.d c.g]) srcs fun c => do
    let s ← get
    let a := s.hart.own.group o.a.toNat c.g
    let b := s.hart.own.group o.b.toNat c.g
    let d := s.hart.own.group o.d.toNat c.g
    setGroup o.d c.g (mapElems c c.w c.vlmax (s.hart.selected o.msk.toNat) (o.mz == 1) d fun e => (f s c a b d e, 0))) s

/-- VMV copies container bits as they stand, also those of a BFP element above its format's bits; and under SCL = 1 a scalar's encoding as R35
makes it, as VMERGE, VMVSX and VINS do (R107, R124; DESIGN CHOICE, notes/assumptions/100.md). -/
def execVmv (o : GOp) (s : State) : Host.Outcome State Fault Refusal :=
  vmove (.vmv o) o (fun c => moveClass o c.fmt) (fun c => if o.form = 0 then [Opd.of o.a c.g] else [])
    (fun s c a _ _ e => if o.form = 0 then elemAt c.w a e else scalarElem c.fmt (s.bScalar o)) s

/-- VMVXS reads one element into a scalar register; it ignores VL and masks (R141). -/
def execVmvxs (o : GOp) (s : State) : Host.Outcome State Fault Refusal :=
  finishNext (.vmvxs o) (do
    let s ← get
    let c := s.cfg
    let a := Opd.of o.a c.g
    illegalIf !(isDefined c.fmt && a.ok s.hart.task.vregs && decide (o.imm.toNat < c.vlmax))
    trapIf (s.hart.streams? a) .streamMisuse 0 2
    let bits := elemAt c.w (s.hart.own.group o.a.toNat c.g) o.imm.toNat
    let v := if isSignedInt c.fmt then BitVec.ofInt 64 (toSigned c.w bits) else word bits
    modHart (·.setXFromXu o.d v)) s

/-- A scalar written into one element of a group that no stream may be in (R141, R278); under SCL = 1 its encoding is not rescaled
(notes/assumptions/100.md). -/
def insertElem (i : Instr) (o : GOp) (idx : Nat) (keep : Bool) (s : State) : Host.Outcome State Fault Refusal :=
  finishNext i (do
    let s ← get
    let c := s.cfg
    let d := Opd.of o.d c.g
    illegalIf !((isInt c.fmt || isFp c.fmt) && d.ok s.hart.task.vregs && decide (idx < c.vlmax))
    trapIf (s.hart.streams? d) .streamMisuse 0 2
    let old := s.hart.own.group o.d.toNat c.g
    let v := scalarElem c.fmt (s.x o.b)
    setGroup o.d c.g (if keep then putBits old (c.w * idx) c.w v else v, 0)) s

/-- VMVSX clears the rest of the group (R141). -/
def execVmvsx (o : GOp) (s : State) := insertElem (.vmvsx o) o 0 false s

/-- VINS leaves the other elements (R141). -/
def execVins (o : GOp) (s : State) := insertElem (.vins o) o o.imm.toNat true s

def execVbcast (o : GOp) (s : State) : Host.Outcome State Fault Refusal :=
  vmove (.vbcast o) o (fun c => isDefined c.fmt && decide (o.imm.toNat < c.vlmax)) (fun c => [Opd.of o.a c.g])
    (fun _ c a _ _ _ => elemAt c.w a o.imm.toNat) s

/-- The amount of a slide, read as unsigned (R141). -/
def State.slideAmount (s : State) (o : GOp) : Nat := if o.form = 1 then (s.x o.b).toNat else o.imm.toNat

/-- Source and destination groups apart (R142). A slide's amount is no value of FMT, so that its FORM asks for no class of its own, and every
format slides (R141; DEDUCED, notes/assumptions/101.md). -/
def apart (o : GOp) (c : Cfg) : Bool := isDefined c.fmt && (Opd.of o.d c.g).disjoint (Opd.of o.a c.g)

def execVslup (o : GOp) (s : State) : Host.Outcome State Fault Refusal :=
  vmove (.vslup o) o (apart o) (fun c => [Opd.of o.a c.g])
    (fun s c a _ d e => let n := s.slideAmount o; if n ≤ e then elemAt c.w a (e - n) else elemAt c.w d e) s

def execVsldn (o : GOp) (s : State) : Host.Outcome State Fault Refusal :=
  vmove (.vsldn o) o (apart o) (fun c => [Opd.of o.a c.g])
    (fun s c a _ _ e => let n := s.slideAmount o; if e + n < c.vl then elemAt c.w a (e + n) else 0) s

/-- The index group of VPERM: UINT16 elements (R142). -/
def permGroup (c : Cfg) : Nat := max 1 (c.groupOf 16)

def execVperm (o : GOp) (s : State) : Host.Outcome State Fault Refusal :=
  vmove (.vperm o) o
    (fun c => apart o c && c.groupOf 16 ≤ 8 && (Opd.of o.d c.g).disjoint (Opd.of o.b (permGroup c)))
    (fun c => [Opd.of o.a c.g, Opd.of o.b (permGroup c)])
    (fun s c a _ _ e =>
      let i := s.hart.indexElem c 16 o.b.toNat (s.hart.own.group o.b.toNat (permGroup c)) e
      if i < c.vl then elemAt c.w a i else 0) s

def execVcompr (o : GOp) (s : State) : Host.Outcome State Fault Refusal :=
  finishNext (.vcompr o) (vectorOp (apart o) (fun c => [Opd.of o.d c.g]) (fun c => [Opd.of o.a c.g]) fun c => do
    let s ← get
    let a := s.hart.own.group o.a.toNat c.g
    let d := s.hart.own.group o.d.toNat c.g
    let picked := (List.range c.vl).filter (s.hart.selected o.msk.toNat)
    setGroup o.d c.g (packElems c.w ((List.range c.vlmax).map fun e =>
      if e < picked.length then elemAt c.w a (picked.getD e 0) else if c.tailz then 0 else elemAt c.w d e), 0)) s

/-- The number of set bits of a mask below `e` (R141). -/
def maskCount (m : MReg) (e : Nat) : Nat := popCount e m.toNat

def execViota (o : GOp) (s : State) : Host.Outcome State Fault Refusal :=
  vmove (.viota o) o (fun c => isInt c.fmt) (fun _ => [])
    (fun s c _ _ _ e => maskCount (s.hart.getM o.a.toNat) e % 2 ^ c.w) s

def execVid (o : GOp) (s : State) : Host.Outcome State Fault Refusal :=
  vmove (.vid o) o (fun c => isInt c.fmt) (fun _ => []) (fun _ c _ _ _ e => e % 2 ^ c.w) s

/-- VMERGE selects at every element below VL (R141). -/
def execVmerge (o : GOp) (s : State) : Host.Outcome State Fault Refusal :=
  finishNext (.vmerge o) (vectorOp (fun c => moveClass o c.fmt) (fun c => [Opd.of o.d c.g])
    (fun c => Opd.of o.a c.g :: bOpd o c.g) fun c => do
      let s ← get
      let a := s.hart.own.group o.a.toNat c.g
      let b := s.hart.own.group o.b.toNat c.g
      let d := s.hart.own.group o.d.toNat c.g
      setGroup o.d c.g (mapElems c c.w c.vlmax (fun _ => true) false d fun e =>
        (if s.hart.maskBit o.msk.toNat e then s.bElem c o b e else elemAt c.w a e, 0))) s

/-! Masks (R143). -/

/-- A mask destination from bits below VL; the rest is tail (R93). -/
def maskOp (i : Instr) (o : GOp) (f : Hart → Nat → Bool) (s : State) : Host.Outcome State Fault Refusal :=
  finishNext i (do
    let h := (← get).hart
    illegalIf !(h.maskDestOk o.d.toNat)
    modHart (·.setM o.d.toNat (mapMask h.cfg (fun _ => true) false (h.getM o.d.toNat) (f h)))) s

def mask2 (i : Instr) (o : GOp) (f : Bool → Bool → Bool) (s : State) : Host.Outcome State Fault Refusal :=
  maskOp i o (fun h e => f (h.maskBit o.a.toNat e) (h.maskBit o.b.toNat e)) s

def execMand (o : GOp) (s : State) := mask2 (.mand o) o (fun a b => a && b) s
def execMor (o : GOp) (s : State) := mask2 (.mor o) o (fun a b => a || b) s
def execMxor (o : GOp) (s : State) := mask2 (.mxor o) o (fun a b => a != b) s
def execMnot (o : GOp) (s : State) := maskOp (.mnot o) o (fun h e => !h.maskBit o.a.toNat e) s
def execMset (o : GOp) (s : State) := maskOp (.mset o) o (fun _ e => decide (e < o.imm.toNat)) s

def execMpopc (o : GOp) (s : State) : Host.Outcome State Fault Refusal :=
  finishNext (.mpopc o) (modHart fun h => h.setXFromXu o.d (word (maskCount (h.getM o.a.toNat) h.cfg.vl))) s

/-- The lowest set bit below VL, or all ones (R143). -/
def firstBit (m : MReg) (vl : Nat) : Word := (((List.range vl).find? fun e => m.getLsbD e).map word).getD (-1)

def execMfirst (o : GOp) (s : State) : Host.Outcome State Fault Refusal :=
  finishNext (.mfirst o) (modHart fun h => h.setXFromXu o.d (firstBit (h.getM o.a.toNat) h.cfg.vl)) s

/-- MMV copies all bits and ignores VL and TAILZ (R143). -/
def execMmv (o : GOp) (s : State) : Host.Outcome State Fault Refusal :=
  finishNext (.mmv o) (do
    let h := (← get).hart
    illegalIf !(h.maskDestOk o.d.toNat)
    modHart fun h => h.setM o.d.toNat (h.getM o.a.toNat)) s

/-! Scales (R144). -/

/-- The scale group of the current type lies in the file and its containers have at most 8 bits (R144). -/
def scaleOk (c : Cfg) (r : Reg) : Bool := c.w ≤ 8 && (Opd.of r c.g).ok 64

/-- Every block byte of a scale register, the other bytes zero (R88). -/
def scaleFill (w b : Nat) : Nat := packElems 8 (List.replicate (blocksOf w) b)

def execEset (o : GOp) (s : State) : Host.Outcome State Fault Refusal :=
  finishNext (.eset o) (do
    let s ← get
    let c := s.cfg
    illegalIf !(scaleOk c o.d)
    let b := if o.a = 0 then o.imm.toNat % 256 else (s.x o.a).toNat % 256
    modHart fun h => { h with own := (List.range c.g).foldl (fun f k => f.setScale (o.d.toNat + k) (scaleFill c.w b)) h.own }) s

/-- EMV copies all 32 bytes (R144), also those beyond the blocks, which R88 has every write of a scale register leave zero: the entry of
the instruction is taken (DESIGN CHOICE, notes/assumptions/80.md). -/
def execEmv (o : GOp) (s : State) : Host.Outcome State Fault Refusal :=
  finishNext (.emv o) (do
    let s ← get
    let c := s.cfg
    illegalIf !(scaleOk c o.d && scaleOk c o.a)
    let src := s.hart.own
    modHart fun h => { h with
      own := (List.range c.g).foldl (fun f k => f.setScale (o.d.toNat + k) (src.scaleReg (o.a.toNat + k))) h.own }) s

end Sys2Proof.Machine
end

