-- ==== Sys2Proof/Machine/Dispatch.lean ====
section
/-!
DEFINITION. The dispatch of an instruction to its meaning, one arm per constructor.
-/

namespace Sys2Proof.Machine

open Sys2Proof

/-- What an instruction does. -/
def exec (i : Instr) (s : State) : Host.Outcome State Fault Refusal :=
  match i with
  | .add o => Sys2Proof.Machine.execAdd o s
  | .sub o => Sys2Proof.Machine.execSub o s
  | .and o => Sys2Proof.Machine.execAnd o s
  | .or o => Sys2Proof.Machine.execOr o s
  | .xor o => Sys2Proof.Machine.execXor o s
  | .andn o => Sys2Proof.Machine.execAndn o s
  | .sll o => Sys2Proof.Machine.execSll o s
  | .srl o => Sys2Proof.Machine.execSrl o s
  | .sra o => Sys2Proof.Machine.execSra o s
  | .rol o => Sys2Proof.Machine.execRol o s
  | .ror o => Sys2Proof.Machine.execRor o s
  | .slt o => Sys2Proof.Machine.execSlt o s
  | .sltu o => Sys2Proof.Machine.execSltu o s
  | .min o => Sys2Proof.Machine.execMin o s
  | .max o => Sys2Proof.Machine.execMax o s
  | .minu o => Sys2Proof.Machine.execMinu o s
  | .maxu o => Sys2Proof.Machine.execMaxu o s
  | .mul o => Sys2Proof.Machine.execMul o s
  | .mulh o => Sys2Proof.Machine.execMulh o s
  | .mulhu o => Sys2Proof.Machine.execMulhu o s
  | .div o => Sys2Proof.Machine.execDiv o s
  | .divu o => Sys2Proof.Machine.execDivu o s
  | .rem o => Sys2Proof.Machine.execRem o s
  | .remu o => Sys2Proof.Machine.execRemu o s
  | .clz o => Sys2Proof.Machine.execClz o s
  | .ctz o => Sys2Proof.Machine.execCtz o s
  | .cpop o => Sys2Proof.Machine.execCpop o s
  | .sel o => Sys2Proof.Machine.execSel o s
  | .addi o => Sys2Proof.Machine.execAddi o s
  | .andi o => Sys2Proof.Machine.execAndi o s
  | .ori o => Sys2Proof.Machine.execOri o s
  | .xori o => Sys2Proof.Machine.execXori o s
  | .slli o => Sys2Proof.Machine.execSlli o s
  | .srli o => Sys2Proof.Machine.execSrli o s
  | .srai o => Sys2Proof.Machine.execSrai o s
  | .slti o => Sys2Proof.Machine.execSlti o s
  | .sltiu o => Sys2Proof.Machine.execSltiu o s
  | .muli o => Sys2Proof.Machine.execMuli o s
  | .li o => Sys2Proof.Machine.execLi o s
  | .lihi o => Sys2Proof.Machine.execLihi o s
  | .shadd o => Sys2Proof.Machine.execShadd o s
  | .bfx o => Sys2Proof.Machine.execBfx o s
  | .bfxs o => Sys2Proof.Machine.execBfxs o s
  | .bfi o => Sys2Proof.Machine.execBfi o s
  | .beq o => Sys2Proof.Machine.execBeq o s
  | .bne o => Sys2Proof.Machine.execBne o s
  | .blt o => Sys2Proof.Machine.execBlt o s
  | .bge o => Sys2Proof.Machine.execBge o s
  | .bltu o => Sys2Proof.Machine.execBltu o s
  | .bgeu o => Sys2Proof.Machine.execBgeu o s
  | .jal o => Sys2Proof.Machine.execJal o s
  | .jalr o => Sys2Proof.Machine.execJalr o s
  | .loop o => Sys2Proof.Machine.execLoop o s
  | .loopn o => Sys2Proof.Machine.execLoopn o s
  | .ldb o => Sys2Proof.Machine.execLdb o s
  | .ldh o => Sys2Proof.Machine.execLdh o s
  | .ldw o => Sys2Proof.Machine.execLdw o s
  | .ldd o => Sys2Proof.Machine.execLdd o s
  | .ldbu o => Sys2Proof.Machine.execLdbu o s
  | .ldhu o => Sys2Proof.Machine.execLdhu o s
  | .ldwu o => Sys2Proof.Machine.execLdwu o s
  | .stb o => Sys2Proof.Machine.execStb o s
  | .sth o => Sys2Proof.Machine.execSth o s
  | .stw o => Sys2Proof.Machine.execStw o s
  | .std o => Sys2Proof.Machine.execStd o s
  | .setvl o => Sys2Proof.Machine.execSetvl o s
  | .setvli o => Sys2Proof.Machine.execSetvli o s
  | .setvty o => Sys2Proof.Machine.execSetvty o s
  | .vadd o => Sys2Proof.Machine.execVadd o s
  | .vsub o => Sys2Proof.Machine.execVsub o s
  | .vrsub o => Sys2Proof.Machine.execVrsub o s
  | .vmul o => Sys2Proof.Machine.execVmul o s
  | .vmulh o => Sys2Proof.Machine.execVmulh o s
  | .vmulhu o => Sys2Proof.Machine.execVmulhu o s
  | .vmin o => Sys2Proof.Machine.execVmin o s
  | .vmax o => Sys2Proof.Machine.execVmax o s
  | .vminu o => Sys2Proof.Machine.execVminu o s
  | .vmaxu o => Sys2Proof.Machine.execVmaxu o s
  | .vand o => Sys2Proof.Machine.execVand o s
  | .vor o => Sys2Proof.Machine.execVor o s
  | .vxor o => Sys2Proof.Machine.execVxor o s
  | .vsll o => Sys2Proof.Machine.execVsll o s
  | .vsrl o => Sys2Proof.Machine.execVsrl o s
  | .vsra o => Sys2Proof.Machine.execVsra o s
  | .vsadd o => Sys2Proof.Machine.execVsadd o s
  | .vssub o => Sys2Proof.Machine.execVssub o s
  | .vsaddu o => Sys2Proof.Machine.execVsaddu o s
  | .vssubu o => Sys2Proof.Machine.execVssubu o s
  | .vmacc o => Sys2Proof.Machine.execVmacc o s
  | .vdiv o => Sys2Proof.Machine.execVdiv o s
  | .vdivu o => Sys2Proof.Machine.execVdivu o s
  | .vrem o => Sys2Proof.Machine.execVrem o s
  | .vremu o => Sys2Proof.Machine.execVremu o s
  | .vcmpeq o => Sys2Proof.Machine.execVcmpeq o s
  | .vcmpne o => Sys2Proof.Machine.execVcmpne o s
  | .vcmplt o => Sys2Proof.Machine.execVcmplt o s
  | .vcmpltu o => Sys2Proof.Machine.execVcmpltu o s
  | .vcmple o => Sys2Proof.Machine.execVcmple o s
  | .vcmpleu o => Sys2Proof.Machine.execVcmpleu o s
  | .vcmpgt o => Sys2Proof.Machine.execVcmpgt o s
  | .vcmpgtu o => Sys2Proof.Machine.execVcmpgtu o s
  | .vfcmpeq o => Sys2Proof.Machine.execVfcmpeq o s
  | .vfcmplt o => Sys2Proof.Machine.execVfcmplt o s
  | .vfcmple o => Sys2Proof.Machine.execVfcmple o s
  | .vfcmpun o => Sys2Proof.Machine.execVfcmpun o s
  | .vfadd o => Sys2Proof.Machine.execVfadd o s
  | .vfsub o => Sys2Proof.Machine.execVfsub o s
  | .vfmul o => Sys2Proof.Machine.execVfmul o s
  | .vfdiv o => Sys2Proof.Machine.execVfdiv o s
  | .vfsqrt o => Sys2Proof.Machine.execVfsqrt o s
  | .vfmin o => Sys2Proof.Machine.execVfmin o s
  | .vfmax o => Sys2Proof.Machine.execVfmax o s
  | .vfma o => Sys2Proof.Machine.execVfma o s
  | .vfms o => Sys2Proof.Machine.execVfms o s
  | .vfnma o => Sys2Proof.Machine.execVfnma o s
  | .vfabs o => Sys2Proof.Machine.execVfabs o s
  | .vfneg o => Sys2Proof.Machine.execVfneg o s
  | .vfsgnj o => Sys2Proof.Machine.execVfsgnj o s
  | .vfexp2 o => Sys2Proof.Machine.execVfexp2 o s
  | .vfclass o => Sys2Proof.Machine.execVfclass o s
  | .vcvt o => Sys2Proof.Machine.execVcvt o s
  | .vcvtbfp o => Sys2Proof.Machine.execVcvtbfp o s
  | .vcvtfbp o => Sys2Proof.Machine.execVcvtfbp o s
  | .vredsumO o => Sys2Proof.Machine.execVredsumO o s
  | .vredsumU o => Sys2Proof.Machine.execVredsumU o s
  | .vredsumi o => Sys2Proof.Machine.execVredsumi o s
  | .vredmax o => Sys2Proof.Machine.execVredmax o s
  | .vredmin o => Sys2Proof.Machine.execVredmin o s
  | .vredand o => Sys2Proof.Machine.execVredand o s
  | .vredor o => Sys2Proof.Machine.execVredor o s
  | .vredxor o => Sys2Proof.Machine.execVredxor o s
  | .vscanO o => Sys2Proof.Machine.execVscanO o s
  | .vscanU o => Sys2Proof.Machine.execVscanU o s
  | .vscani o => Sys2Proof.Machine.execVscani o s
  | .vtopk o => Sys2Proof.Machine.execVtopk o s
  | .vamax o => Sys2Proof.Machine.execVamax o s
  | .vmv o => Sys2Proof.Machine.execVmv o s
  | .vmvxs o => Sys2Proof.Machine.execVmvxs o s
  | .vmvsx o => Sys2Proof.Machine.execVmvsx o s
  | .vbcast o => Sys2Proof.Machine.execVbcast o s
  | .vslup o => Sys2Proof.Machine.execVslup o s
  | .vsldn o => Sys2Proof.Machine.execVsldn o s
  | .vperm o => Sys2Proof.Machine.execVperm o s
  | .vcompr o => Sys2Proof.Machine.execVcompr o s
  | .viota o => Sys2Proof.Machine.execViota o s
  | .vid o => Sys2Proof.Machine.execVid o s
  | .vmerge o => Sys2Proof.Machine.execVmerge o s
  | .vins o => Sys2Proof.Machine.execVins o s
  | .mand o => Sys2Proof.Machine.execMand o s
  | .mor o => Sys2Proof.Machine.execMor o s
  | .mxor o => Sys2Proof.Machine.execMxor o s
  | .mnot o => Sys2Proof.Machine.execMnot o s
  | .mpopc o => Sys2Proof.Machine.execMpopc o s
  | .mfirst o => Sys2Proof.Machine.execMfirst o s
  | .mset o => Sys2Proof.Machine.execMset o s
  | .mmv o => Sys2Proof.Machine.execMmv o s
  | .eset o => Sys2Proof.Machine.execEset o s
  | .emv o => Sys2Proof.Machine.execEmv o s
  | .vld o => Sys2Proof.Machine.execVld o s
  | .vlds o => Sys2Proof.Machine.execVlds o s
  | .vldx o => Sys2Proof.Machine.execVldx o s
  | .vgathb o => Sys2Proof.Machine.execVgathb o s
  | .vldr o => Sys2Proof.Machine.execVldr o s
  | .vst o => Sys2Proof.Machine.execVst o s
  | .vsts o => Sys2Proof.Machine.execVsts o s
  | .vstx o => Sys2Proof.Machine.execVstx o s
  | .eld o => Sys2Proof.Machine.execEld o s
  | .est o => Sys2Proof.Machine.execEst o s
  | .mld o => Sys2Proof.Machine.execMld o s
  | .mst o => Sys2Proof.Machine.execMst o s
  | .bsset o => Sys2Proof.Machine.execBsset o s
  | .bsld o => Sys2Proof.Machine.execBsld o s
  | .bsst o => Sys2Proof.Machine.execBsst o s
  | .dprod o => Sys2Proof.Machine.execDprod o s
  | .dcorr o => Sys2Proof.Machine.execDcorr o s
  | .dapply o => Sys2Proof.Machine.execDapply o s
  | .azero o => Sys2Proof.Machine.execAzero o s
  | .adrain o => Sys2Proof.Machine.execAdrain o s
  | .adrainm o => Sys2Proof.Machine.execAdrainm o s
  | .aread o => Sys2Proof.Machine.execAread o s
  | .awrite o => Sys2Proof.Machine.execAwrite o s
  | .amoswap o => Sys2Proof.Machine.execAmoswap o s
  | .amocas o => Sys2Proof.Machine.execAmocas o s
  | .amoadd o => Sys2Proof.Machine.execAmoadd o s
  | .amoand o => Sys2Proof.Machine.execAmoand o s
  | .amoor o => Sys2Proof.Machine.execAmoor o s
  | .amoxor o => Sys2Proof.Machine.execAmoxor o s
  | .amomin o => Sys2Proof.Machine.execAmomin o s
  | .amomax o => Sys2Proof.Machine.execAmomax o s
  | .amominu o => Sys2Proof.Machine.execAmominu o s
  | .amomaxu o => Sys2Proof.Machine.execAmomaxu o s
  | .amofadd o => Sys2Proof.Machine.execAmofadd o s
  | .amofmax o => Sys2Proof.Machine.execAmofmax o s
  | .amoincw o => Sys2Proof.Machine.execAmoincw o s
  | .amoaddb o => Sys2Proof.Machine.execAmoaddb o s
  | .vamo o => Sys2Proof.Machine.execVamo o s
  | .vfas o => Sys2Proof.Machine.execVfas o s
  | .copy o => Sys2Proof.Machine.execCopy o s
  | .copycv o => Sys2Proof.Machine.execCopycv o s
  | .copyseg o => Sys2Proof.Machine.execCopyseg o s
  | .wsload o => Sys2Proof.Machine.execWsload o s
  | .mkout o => Sys2Proof.Machine.execMkout o s
  | .rinit o => Sys2Proof.Machine.execRinit o s
  | .rawait o => Sys2Proof.Machine.execRawait o s
  | .rrel o => Sys2Proof.Machine.execRrel o s
  | .rpeek o => Sys2Proof.Machine.execRpeek o s
  | .son o => Sys2Proof.Machine.execSon o s
  | .soff o => Sys2Proof.Machine.execSoff o s
  | .sstat o => Sys2Proof.Machine.execSstat o s
  | .binit o => Sys2Proof.Machine.execBinit o s
  | .bapp o => Sys2Proof.Machine.execBapp o s
  | .breplay o => Sys2Proof.Machine.execBreplay o s
  | .bflush o => Sys2Proof.Machine.execBflush o s
  | .apld o => Sys2Proof.Machine.execApld o s
  | .apst o => Sys2Proof.Machine.execApst o s
  | .apset o => Sys2Proof.Machine.execApset o s
  | .ralloc o => Sys2Proof.Machine.execRalloc o s
  | .vfork o => Sys2Proof.Machine.execVfork o s
  | .vnarrow o => Sys2Proof.Machine.execVnarrow o s
  | .vsplit o => Sys2Proof.Machine.execVsplit o s
  | .vdrop o => Sys2Proof.Machine.execVdrop o s
  | .vinfo o => Sys2Proof.Machine.execVinfo o s
  | .vexport o => Sys2Proof.Machine.execVexport o s
  | .vimport o => Sys2Proof.Machine.execVimport o s
  | .hgload o => Sys2Proof.Machine.execHgload o s
  | .hggrad o => Sys2Proof.Machine.execHggrad o s
  | .hgcell o => Sys2Proof.Machine.execHgcell o s
  | .launch o => Sys2Proof.Machine.execLaunch o s
  | .wmark o => Sys2Proof.Machine.execWmark o s
  | .barj o => Sys2Proof.Machine.execBarj o s
  | .bara o => Sys2Proof.Machine.execBara o s
  | .barw o => Sys2Proof.Machine.execBarw o s
  | .barl o => Sys2Proof.Machine.execBarl o s
  | .drain o => Sys2Proof.Machine.execDrain o s
  | .sleepu o => Sys2Proof.Machine.execSleepu o s
  | .fence o => Sys2Proof.Machine.execFence o s
  | .csrr o => Sys2Proof.Machine.execCsrr o s
  | .csrw o => Sys2Proof.Machine.execCsrw o s
  | .csrs o => Sys2Proof.Machine.execCsrs o s
  | .csrc o => Sys2Proof.Machine.execCsrc o s
  | .ecall o => Sys2Proof.Machine.execEcall o s
  | .brk o => Sys2Proof.Machine.execBrk o s
  | .tlbinv o => Sys2Proof.Machine.execTlbinv o s
  | .vsegld o => Sys2Proof.Machine.execVsegld o s
  | .nop => Sys2Proof.Machine.execNop s
  | .agang0 => Sys2Proof.Machine.execAgang0 s
  | .agang4 => Sys2Proof.Machine.execAgang4 s
  | .agangBad => Sys2Proof.Machine.execAgangBad s
  | .endTask => Sys2Proof.Machine.execEndTask s
  | .yieldpt => Sys2Proof.Machine.execYieldpt s
  | .fenceRoHart => Sys2Proof.Machine.execFenceRoHart s
  | .fenceRoCore => Sys2Proof.Machine.execFenceRoCore s
  | .fenceRoPair => Sys2Proof.Machine.execFenceRoPair s
  | .fenceRoDie => Sys2Proof.Machine.execFenceRoDie s
  | .fenceRoPkg => Sys2Proof.Machine.execFenceRoPkg s
  | .fenceRoSys => Sys2Proof.Machine.execFenceRoSys s
  | .fenceI => Sys2Proof.Machine.execFenceI s
  | .tret => Sys2Proof.Machine.execTret s
  | .wfi => Sys2Proof.Machine.execWfi s
  | .dfan => Sys2Proof.Machine.execDfan s
  | .vld1k => Sys2Proof.Machine.execVld1k s
  | .stripClose => Sys2Proof.Machine.execStripClose s
  | .diagonalEnginePick => Sys2Proof.Machine.execDiagonalEnginePick s
  | .tileReturn => Sys2Proof.Machine.execTileReturn s
  | .commandCompletion => Sys2Proof.Machine.execCommandCompletion s
  | .ladleFaultResume => Sys2Proof.Machine.execLadleFaultResume s
  | .rawaitWake => Sys2Proof.Machine.execRawaitWake s
  | .missedPromise => Sys2Proof.Machine.execMissedPromise s
  | .streamRefill => Sys2Proof.Machine.execStreamRefill s
  | .sieveApply => Sys2Proof.Machine.execSieveApply s
  | .scraperFree => Sys2Proof.Machine.execScraperFree s
  | .barwWake => Sys2Proof.Machine.execBarwWake s
  | .drainDone => Sys2Proof.Machine.execDrainDone s
  | .sleepuWake => Sys2Proof.Machine.execSleepuWake s
  | .wfiWake => Sys2Proof.Machine.execWfiWake s
  | .trapReflect => Sys2Proof.Machine.execTrapReflect s
  | .taskKill => Sys2Proof.Machine.execTaskKill s
  | .lqGo => Sys2Proof.Machine.execLqGo s
  | .lqOvfClear => Sys2Proof.Machine.execLqOvfClear s
  | .registerWrite => Sys2Proof.Machine.execRegisterWrite s
  | .graphValidation => Sys2Proof.Machine.execGraphValidation s
  | .nodeRelease => Sys2Proof.Machine.execNodeRelease s
  | .nodeCompletion => Sys2Proof.Machine.execNodeCompletion s
  | .tilePlace => Sys2Proof.Machine.execTilePlace s
  | .priorityAging => Sys2Proof.Machine.execPriorityAging s
  | .dispatcherWriteResume => Sys2Proof.Machine.execDispatcherWriteResume s
  | .preemptRequest => Sys2Proof.Machine.execPreemptRequest s
  | .forcedStop => Sys2Proof.Machine.execForcedStop s
  | .refreshWindowStart => Sys2Proof.Machine.execRefreshWindowStart s
  | .refreshWindowEnd => Sys2Proof.Machine.execRefreshWindowEnd s
  | .migrationLineCopy => Sys2Proof.Machine.execMigrationLineCopy s
  | .rdWritePerform => Sys2Proof.Machine.execRdWritePerform s
  | .hostRead => Sys2Proof.Machine.execHostRead s
  | .hostWrite => Sys2Proof.Machine.execHostWrite s
  | .brynedFlit => Sys2Proof.Machine.execBrynedFlit s
  | .portDown => Sys2Proof.Machine.execPortDown s
  | .brynedRequest => Sys2Proof.Machine.execBrynedRequest s
  | .coreStateError => Sys2Proof.Machine.execCoreStateError s
  | .watchdogExpiry => Sys2Proof.Machine.execWatchdogExpiry s
  | .monitorEvent => Sys2Proof.Machine.execMonitorEvent s
  | .throttleEscalate => Sys2Proof.Machine.execThrottleEscalate s
  | .budgetWindow => Sys2Proof.Machine.execBudgetWindow s
  | .codeObjectLoad => Sys2Proof.Machine.execCodeObjectLoad s
  | .boot => Sys2Proof.Machine.execBoot s
  | .sieveFaultResume => Sys2Proof.Machine.execSieveFaultResume s
  | .accessPerform => Sys2Proof.Machine.execAccessPerform s

end Sys2Proof.Machine
end

