-- ==== Sys2Proof/Machine/Dump.lean ====
section
/-!
DEFINITION. What happens to the package beside its instructions and device steps: evictions and their latent events, the end
of fault records, and the dump after a fatal error (11:R213; 12:R231; 21:R362, R369; 22:R381).
-/

namespace Sys2Proof.Machine

/-! Fault records that firmware has served (R362). -/

/-- VALID of a record. -/
def recordValid : FaultRecord := 1#512 <<< 448

/-- Firmware consumes a die's oldest record: its VALID bit is cleared, and it stands in its slot until the ring comes round. -/
def State.consumeFault (s : State) (die : Nat) : State :=
  let d := s.die die
  match d.faults with
  | [] => s
  | r :: rest => s.setDie die { d with faults := rest, served := (r &&& ~~~recordValid) :: d.served.take 1023 }

/-! Lines fetched ahead, and evictions (R213, R231, R369). -/

/-- The running hart's core fetches the line at an address ahead, if the hart may read or execute it. -/
def State.prefetch (s : State) (exec : Bool) (address : Word) : State :=
  let h := s.hart
  let q : Req := { place := h.place, asid := h.accessAsid, exec }
  if h.run = .idle then s
  else
    match s.locate q (pcLine address) with
    | .ok (.at_ (.page x)) =>
      if Entry.cls x.entry == 1 then s
      else
        let pa := s.readAddr q (.page x)
        let s := s.touch q (.page x)
        let l := { s.snapshot q (.page x) with used := false }
        if exec then if s.fetched.any (·.holds h.place pa) then s else { s with fetched := l :: s.fetched }
        else if s.readOnly.any (·.holds h.place pa) || !(s.flooredStores q (.page x)).isEmpty then s
        else { s with readOnly := l :: s.readOnly }
    | _ => s

def State.evictFetch (s : State) (k : Nat) : State :=
  match s.fetched[k]? with
  | none => s
  | some l => ({ s with fetched := s.fetched.eraseIdx k }).logDiscard true l

def State.evictReadOnly (s : State) (k : Nat) : State :=
  match s.readOnly[k]? with
  | none => s
  | some l => ({ s with readOnly := s.readOnly.eraseIdx k }).logDiscard false l

/-! The dump (R381). -/

/-- FCAUSE; that of a thermal shutdown is open. -/
def State.fatalCode (s : State) (why : Fatal) : State × Nat :=
  match why with
  | .firmwareTrap => (s, 1)
  | .serviceCore => (s, 2)
  | .watchdog => (s, 3)
  | .shutdown =>
    let (s, c) := s.popChoice
    (s, c % 256)

/-- WHERE. -/
def FatalReport.where_ (r : FatalReport) (die : Nat) : Nat :=
  if die = r.place.die then die % 4 * 2 ^ 48 + r.place.core % 256 * 2 ^ 40 + r.place.slot % 4 * 2 ^ 32 else 2 ^ 64 - 1

/-- The sections of a die's dump: offset and bytes. Everything else up to the end of HARTS is zero. -/
def State.dumpSections (s : State) (r : FatalReport) (code die : Nat) : List (Nat × List Byte) :=
  let d := s.die die
  [(0, dwords [word code, word (r.where_ die), s.cycle, r.epc, r.ecause, r.eaddr, r.einfo, d.faultSeq.setWidth 64,
      d.latent.setWidth 64])] ++
  ((d.served.reverse ++ d.faults).map fun f => (0x1000 + 64 * (bitsAt f.toNat 384 32 % 1024), toBytes 64 f.toNat)) ++
  (d.latentLog.zipIdx.map fun e => (0x11000 + 64 * e.2, toBytes 64 e.1.toNat)) ++
  ((s.harts.filter fun h => h.run == .running && h.place.die == die).map fun h =>
    (0x12000 + 1536 * (4 * h.place.core + h.place.slot), h.compactImage 1 0 s.cycle)) ++
  [(0xFF8, [1])]

/-- Bytes of a die's section that the dump writes. -/
def dumpBytes : Nat := 0x12000 + 160 * 1536

/-- A die's dump at its area, if boot has named one. -/
def State.dumpDie (s : State) (r : FatalReport) (code die : Nat) : State :=
  match s.dumps[die]? with
  | none => s
  | some base =>
    let cleared := { s with
      mem := s.mem.eraseRange base (base + dumpBytes)
      poison := s.poison.eraseRange (base / 8) ((base + dumpBytes) / 8) }
    (s.dumpSections r code die).foldl (fun t p => t.setMemBytes (base + p.1) p.2) cleared

/-- The service cores of all four dies write the dump. -/
def State.writeDump (s : State) (r : FatalReport) : State :=
  let (s, code) := s.fatalCode r.why
  (List.range 4).foldl (fun s die => s.dumpDie r code die) s

/-- What a step that has just met a fatal error adds. -/
def State.afterFatal (s : State) : State :=
  match s.fatal with
  | some r => s.writeDump r
  | none => s

/-- The dump follows the step that met the fatal error. -/
def dumpAfter (s : State) (o : Host.Outcome State Fault Refusal) : Host.Outcome State Fault Refusal :=
  match o with
  | .next t => if s.fatal.isNone then .next t.afterFatal else .next t
  | o => o

end Sys2Proof.Machine
end

