-- ==== Sys2Proof/Machine/Run.lean ====
section
/-!
DEFINITION. What one step runs: the running hart's next instruction, or the next entry of the agenda; and how a slot word is
put where the next step fetches (01:R8, R22; 02:R26, R27, R32; 12:R225, R227; 21:R362; 22:R375, R381). The order of the agenda is the
model's input (notes/assumptions/8.md).
-/

namespace Sys2Proof.Machine

/-- The running hart fetches and runs the instruction at its PC. An idle slot, a hart that a fatal error has stopped (R381) and one that
stands at its forced stop (R375) do nothing; one that has fault records to write writes them (R362); at a diagonal instruction it waits
for the engine's pick (R170). -/
def State.runHart (s : State) : Host.Outcome State Fault Refusal :=
  if s.fatal.isSome || s.hart.run == .idle || s.atStop then .next s
  else
    match s.hart.faulting with
    | some f => .next (s.writeRecords f)
    | none =>
      match fetchInstr s with
      | .ok i t => if s.behindPick i then .next (t.waitAt i) else exec i t
      | .error (.trap c) t => .next (t.takeTrap c)
      | .error .wait t => .next t

/-- A device step that needs no hart and no firmware: it goes on after a fatal error (R259, R381, R388 to R391). -/
def Instr.outlivesHarts (i : Instr) : Bool :=
  i == .hostRead || i == .hostWrite || i == .brynedFlit || i == .brynedRequest || i == .accessPerform || i == .rdWritePerform

/-- An entry of the agenda. Only a device step can be an event: an instruction runs from memory. -/
def State.perform (s : State) (a : Agenda) : Host.Outcome State Fault Refusal :=
  match a with
  | .event i arg => if i.code.isNone && (s.fatal.isNone || Instr.outlivesHarts i) then exec i { s with arg } else .next s
  | .turn p => .next (s.turnTo p)
  | .tick n => .next (s.tick n)
  | .evictTlb k => .next { s with tlb := s.tlb.eraseIdx k }
  | .evictFetch k => .next (s.evictFetch k)
  | .evictReadOnly k => .next (s.evictReadOnly k)
  | .prefetch ex a => .next (s.prefetch ex a)
  | .memoryError a => .next { s with poison := s.poison.set false (a / 8) true }
  | .correctedError die => .next (s.setDie die { s.die die with corrected := satIncr (s.die die).corrected })
  | .lineError k bit => .next { s with fetched := s.fetched.modify k fun l => { l with bits := Nat.xor l.bits (2 ^ (bit % 512)) } }
  | .loopError k bit => .next { s with hart := { s.hart with loop := s.hart.loop.map fun b =>
      { b with held := b.held.modify k fun l => { l with bits := Nat.xor l.bits (2 ^ (bit % 512)) } } } }
  | .engineIdle die core => .next (if die < 4 && core < 40 then { s with steps := s.steps.erase (coreKey die core) } else s)
  | .consumeFault die => .next (s.consumeFault die)
  | .mapPage e => .next ((s.mapEntry e).getD s)

/-- A step: the next agenda entry, or the running hart. -/
def State.advance (s : State) : Host.Outcome State Fault Refusal :=
  match s.agenda with
  | a :: rest => dumpAfter s (State.perform { s with agenda := rest } a)
  | [] => dumpAfter s s.runHart

/-! Placing a slot word for the next step. -/

/-- The page frame that holds the placed line; the page table of the state after reset lies below it. -/
def programFrame : Nat := 4

/-- Where the placed line stands: at the hart's PC, or on page 4 while that is no address of code. -/
def Hart.programPc (h : Hart) : Word :=
  if isPc h.pc && pcLine h.pc != 0 && regionOf h.place.die h.pc == .paged then h.pc else 0x40000

/-- A line of 64 bytes whose five slots all hold `w`, every slot a target, with its parity bits (R26, R27). -/
def lineOf (w : Nat) : Nat :=
  let spar := if popCount 96 w % 2 = 1 then 31 * 2 ^ 9 else 0
  let body := 31 + spar
  let lw := body + (if popCount 15 body % 2 = 1 then 2 ^ 14 else 0)
  (List.range 5).foldl (fun l k => l + w % 2 ^ 96 * 2 ^ (96 * k)) (lw * 2 ^ 480)

/-- The running hart at a task, at a line that holds the word in each of its slots, on a page that is mapped for its fetch,
with no copy and no poison of what the fetch reads, and nothing else to run first; its core's engine is its own (R170). -/
def State.placeWord (s : State) (w : Nat) : State :=
  let pc := s.hart.programPc
  let h := { s.hart with
    run := .running, firmware := false, pc, sequential := false, waiting := none, faulting := none, launched := none, deadline := none, loop := none,
    landing := 0 }
  let vpn := pc.toNat / 2 ^ 16
  let line := programFrame * 2 ^ 16 + pc.toNat % 2 ^ 16 / 64 * 64
  let entry := s.entryAddr (s.firstBucket 0 h.asid vpn) 0
  let s := { s with
    hart := h, parked := s.parked.filter fun p => p.place.die != h.place.die || p.place.core != h.place.core, agenda := [], fatal := none, tlb := [], fetched := [], pend := []
    poison := (s.poison.eraseRange (entry / 8) (entry / 8 + 16)).eraseRange (line / 8) (line / 8 + 8) }
  (s.setMemBytes entry (toBytes 16 (pageEntry h.asid vpn programFrame true true).toNat)).setMemBytes line
    (toBytes 64 (lineOf w))

end Sys2Proof.Machine
end

