-- ==== Sys2Proof/Machine/Step.lean ====
section
/-!
DEFINITION. One step of the package, and the state whose next step fetches a given word.
-/

namespace Sys2Proof.Machine

/-- One step: an entry of the agenda if there is one, else the running hart's next instruction. -/
def step (s : State) : Host.Outcome State Fault Refusal := s.advance

/-- `s` with the instruction whose bits are `w` where `step` fetches next; it stands for the loading and placing of a program
(notes/assumptions/1.md). Instructions are 96 bits, so the bits at and above `nbits` are zero. -/
def State.withFetchWord (s : State) (nbits w : Nat) : State := s.placeWord (w % 2 ^ nbits)

end Sys2Proof.Machine
end

