-- ==== Sys2Proof/Safety.lean ====
section
/-!
DEFINITION. A safe run, and the words that the statements use: what an instruction leaves unchanged, how it ends, the
register and the group that it writes, and the conditions under which it runs.
-/

namespace Sys2Proof.Machine

/-! Runs. -/

/-- `t` comes after some steps from `s`. -/
inductive Reaches : State → State → Prop where
  | refl (s : State) : Reaches s s
  | step {s t u : State} : Reaches s t → Machine.step t = .next u → Reaches s u

/-- A run from `s` on which no fatal error stops the device (R381). -/
def SafeFrom (s : State) : Prop := ∀ t, Reaches s t → t.fatal = none

/-! Frames. -/

/-- A piece of the state that an instruction may change. The PC, SEQF's history, when control reached the PC, a wait, and at task
privilege ELX and m7, and the drops that a diagonal instruction leaves to land belong to how an instruction ends and are said by `Retires`
and its like. -/
inductive Piece where
  | x | v | e | far
  /-- m1 to m6, and m7 at firmware privilege, which keeps it (the model's choice, notes/assumptions/14.md). -/
  | m
  | bs | ap | h | ac | streams
  /-- ELX at firmware privilege, which keeps it (the model's choice, notes/assumptions/14.md). -/
  | elx
  /-- VL, VTY, STRIPN, WMBASE and SRBASE. -/
  | strip
  | fflags | dgdrop | lidx | togest | retuse
  /-- The hart's loop buffer. -/
  | loop
  /-- Every other CSR that is held as a word. -/
  | csrs
  | bars | lates | promise
  /-- DECLOSS and the like, and what the access unit has not read yet. -/
  | decoupling
  | acted | fwEvent | privilege
  /-- The stores that the hart's later writes follow (R262). -/
  | ordered
  /-- What is left of an instruction that has begun: fault records to write, or a synchronous LAUNCH that has pushed its graph. -/
  | trapping
  /-- The slot, the task and its identity; the counters that freed slots keep. -/
  | task
  | parked | inputs | choices
  /-- Every byte, as every agent of every die sees it. -/
  | memory
  /-- The mark of every doubleword, as every agent of every die sees it. -/
  | poison
  /-- The stores on their way to the other dies. -/
  | stores
  | tags | tlb | fetched | readOnly | lanes | steps | cycle | pageTable | dies | cmds | sets | barriers
  /-- Graphs, their numbers and the dispatchers' waiting writes. -/
  | graphs
  | arenas | exports | replicas
  /-- What the host, the peers and firmware's registers hold. -/
  | device
  | fatal
  deriving DecidableEq, Repr

/-- The piece is the same in both states. -/
def Piece.Same : Piece → State → State → Prop
  | .x, s, t => t.hart.x = s.hart.x
  | .v, s, t => t.hart.own.v = s.hart.own.v
  | .e, s, t => t.hart.own.e = s.hart.own.e
  | .far, s, t => t.hart.far = s.hart.far
  | .m, s, t => ∀ k, k ≠ 7 ∨ s.hart.firmware = true → t.hart.getM k = s.hart.getM k
  | .bs, s, t => t.hart.bs = s.hart.bs
  | .ap, s, t => t.hart.ap = s.hart.ap
  | .h, s, t => t.hart.h = s.hart.h
  | .ac, s, t => t.hart.ac = s.hart.ac ∧ t.hart.retiring = s.hart.retiring
  | .streams, s, t => t.hart.streams = s.hart.streams
  | .elx, s, t => s.hart.firmware = true → t.hart.csr.elx = s.hart.csr.elx
  | .strip, s, t => t.hart.csr.vl = s.hart.csr.vl ∧ t.hart.csr.vty = s.hart.csr.vty ∧ t.hart.csr.stripn = s.hart.csr.stripn ∧
      t.hart.csr.wmbase = s.hart.csr.wmbase ∧ t.hart.csr.srbase = s.hart.csr.srbase
  | .fflags, s, t => t.hart.csr.fflags = s.hart.csr.fflags
  | .dgdrop, s, t => t.hart.csr.dgdrop = s.hart.csr.dgdrop
  | .lidx, s, t => t.hart.csr.lidx = s.hart.csr.lidx
  | .togest, s, t => t.hart.csr.togest = s.hart.csr.togest
  | .retuse, s, t => t.hart.csr.retuse = s.hart.csr.retuse
  | .loop, s, t => t.hart.loop = s.hart.loop
  | .csrs, s, t =>
      let c := s.hart.csr
      let d := t.hart.csr
      d.slot = c.slot ∧ d.coreid = c.coreid ∧ d.dieid = c.dieid ∧ d.slip = c.slip ∧ d.frm = c.frm ∧ d.srseed = c.srseed ∧
      d.taskid = c.taskid ∧ d.nodeid = c.nodeid ∧ d.taskn = c.taskn ∧ d.argp = c.argp ∧ d.preempt = c.preempt ∧
      d.wscal = c.wscal ∧ d.tvec = c.tvec ∧ d.epc = c.epc ∧ d.ecause = c.ecause ∧ d.eaddr = c.eaddr ∧ d.einfo = c.einfo ∧ d.budget = c.budget
  | .bars, s, t => t.hart.bars = s.hart.bars
  | .lates, s, t => t.hart.lates = s.hart.lates
  | .promise, s, t => t.hart.promise = s.hart.promise
  | .decoupling, s, t => t.hart.counters = s.hart.counters ∧ t.hart.fromXu = s.hart.fromXu
  | .acted, s, t => t.hart.acted = s.hart.acted
  | .fwEvent, s, t => t.hart.fwEvent = s.hart.fwEvent
  | .privilege, s, t => t.hart.firmware = s.hart.firmware
  | .ordered, s, t => t.hart.ordered = s.hart.ordered
  | .trapping, s, t => t.hart.faulting = s.hart.faulting ∧ t.hart.launched = s.hart.launched
  | .task, s, t => t.hart.place = s.hart.place ∧ t.hart.run = s.hart.run ∧ t.hart.asid = s.hart.asid ∧
      t.hart.leader = s.hart.leader ∧ t.hart.pair = s.hart.pair ∧ t.hart.det = s.hart.det ∧ t.hart.task = s.hart.task ∧
      t.hart.deadline = s.hart.deadline ∧ t.hart.refetched = s.hart.refetched ∧ t.slotCounters = s.slotCounters
  | .parked, s, t => t.parked = s.parked
  | .inputs, s, t => t.agenda = s.agenda ∧ t.arg = s.arg
  | .choices, s, t => t.choices = s.choices
  | .memory, s, t => ∀ q a, t.byteAt q a = s.byteAt q a
  | .poison, s, t => ∀ q d, t.poisonFrom q d d = s.poisonFrom q d d
  | .stores, s, t => t.pend = s.pend ∧ t.storeSeq = s.storeSeq
  | .tags, s, t => t.tags = s.tags
  | .tlb, s, t => t.tlb = s.tlb
  | .fetched, s, t => t.fetched = s.fetched
  | .readOnly, s, t => t.readOnly = s.readOnly
  | .lanes, s, t => t.lanes = s.lanes
  | .steps, s, t => t.steps = s.steps
  | .cycle, s, t => t.cycle = s.cycle
  | .pageTable, s, t => t.ptbase = s.ptbase ∧ t.ptlog2 = s.ptlog2 ∧ t.trapEntry = s.trapEntry
  | .dies, s, t => t.dies = s.dies
  | .cmds, s, t => t.cmds = s.cmds
  | .sets, s, t => t.sets = s.sets
  | .barriers, s, t => t.barriers = s.barriers
  | .graphs, s, t => t.graphs = s.graphs ∧ t.nextGraph = s.nextGraph ∧ t.turns = s.turns ∧ t.dispWrites = s.dispWrites
  | .arenas, s, t => t.arenas = s.arenas
  | .exports, s, t => t.exports = s.exports
  | .replicas, s, t => t.replicas = s.replicas
  | .device, s, t => t.queues = s.queues ∧ t.assigned = s.assigned ∧ t.bar2 = s.bar2 ∧
      t.routes = s.routes ∧ t.grants = s.grants ∧ t.marks = s.marks ∧ t.ports = s.ports ∧ t.registers = s.registers ∧
      t.symbols = s.symbols ∧ t.objects = s.objects ∧ t.hostData = s.hostData ∧ t.hostErrors = s.hostErrors ∧ t.peerData = s.peerData ∧
      t.bootFailed = s.bootFailed ∧ t.dumps = s.dumps
  | .fatal, s, t => t.fatal = s.fatal

/-- Every piece but the listed ones is the same. -/
def Unchanged (l : List Piece) (s t : State) : Prop := ∀ p, p ∉ l → p.Same s t

/-! How an instruction ends. -/

/-- At task privilege ELX and m7 are zero after an instruction that completes (R94); at firmware privilege they are kept, which is the
model's choice (notes/assumptions/14.md). -/
def Settled (s t : State) : Prop :=
  t.hart.waiting = none ∧ (s.hart.firmware = false → t.hart.csr.elx = 0 ∧ t.hart.getM 7 = 0)

/-- Control goes on in sequence (R8); `drops` of a diagonal instruction may still land (R180). -/
def Retires (s t : State) (drops : Nat := 0) : Prop :=
  t.hart.pc = nextPc s.hart.pc ∧ t.hart.sequential = true ∧ t.hart.landing = drops ∧ Settled s t

/-- Control goes to a PC by a transfer (R28). -/
def Transfers (pc : Word) (s t : State) : Prop := t.hart.pc = pc ∧ t.hart.sequential = false ∧ t.hart.landing = 0 ∧ Settled s t

/-- The instruction stays where it was, ELX and m7 too. -/
def Stays (s t : State) : Prop :=
  t.hart.pc = s.hart.pc ∧ t.hart.sequential = s.hart.sequential ∧ t.hart.csr.elx = s.hart.csr.elx ∧ t.hart.getM 7 = s.hart.getM 7 ∧
  t.hart.landing = s.hart.landing

/-- The instruction completes in sequence, changes at most the listed pieces, and `post` holds of the next state. -/
def Completes (i : Instr) (s : State) (l : List Piece) (post : State → Prop) (drops : Nat := 0) : Prop :=
  ∃ t, exec i s = .next t ∧ Retires s t drops ∧ Unchanged l s t ∧ post t

/-- The instruction completes with a transfer. -/
def Jumps (i : Instr) (s : State) (pc : Word) (l : List Piece) (post : State → Prop) : Prop :=
  ∃ t, exec i s = .next t ∧ Transfers pc s t ∧ Unchanged l s t ∧ post t

/-- A device step, or an instruction that places the hart itself, leads to the state `t`. -/
def LeadsTo (i : Instr) (s t : State) : Prop := exec i s = .next t

/-- The trap sequence of R22 at task privilege: the cause word holds the code, the privilege 0b00, SEQF, and PART where ELX is not zero,
but for the accesses whose rules give PART as 0, which `whole` tells (the model's reading of rules that differ, notes/assumptions/72.md). -/
def Enters (s t : State) (cause : Cause) (epc addr info : Word) (seqf : Bool) (whole : Bool := false) : Prop :=
  t.hart.firmware = true ∧ t.hart.pc = s.trapEntry ∧ t.hart.sequential = false ∧ t.hart.waiting = none ∧ t.hart.landing = 0 ∧
  t.hart.csr.epc = epc ∧ t.hart.csr.eaddr = addr ∧ t.hart.csr.einfo = info ∧
  t.hart.csr.ecause.toNat = cause.code + (if whole = false ∧ t.hart.csr.elx ≠ 0 then 0x100 else 0) +
    if seqf then 0x800 else 0

/-- What taking a trap changes by itself: a protection fault drops the TLB copies of its address (R230). -/
def trapPieces (cause : Cause) : List Piece := .privilege :: .csrs :: if cause = .protection then [.tlb] else []

/-- The instruction traps at task privilege as it stands, with nothing of its own effect done but what `l` lists. -/
def Traps (i : Instr) (s : State) (cause : Cause) (addr info : Word) (l : List Piece) (whole : Bool := false) : Prop :=
  ∃ t, exec i s = .next t ∧ Enters s t cause s.hart.pc addr info false whole ∧
    t.hart.csr.elx = s.hart.csr.elx ∧ t.hart.getM 7 = s.hart.getM 7 ∧ Unchanged (trapPieces cause ++ l) s t

/-- The instruction waits: it has not executed, and the hart stands at it. -/
def Waits (i : Instr) (s : State) (l : List Piece) : Prop :=
  ∃ t, exec i s = .next t ∧ t.hart.waiting = some i ∧ Stays s t ∧ Unchanged l s t

/-! Registers written. -/

/-- x[d] takes the value and no other scalar register changes; x0 stays zero (R10). -/
def WritesX (d : Reg) (v : Word) (s t : State) : Prop :=
  t.x d = (if d = 0 then 0 else v) ∧ ∀ r, r ≠ d → t.x r = s.x r

/-- One mask register takes a value; position 0 is none, and m7 reads as zero while ELX is 0 (R94). -/
def WritesM (d : Nat) (v : MReg) (s t : State) : Prop :=
  t.hart.getM d = (if d = 7 ∧ s.hart.csr.elx = 0 then 0 else v) ∧ ∀ k, k ≠ d → (k ≠ 7 ∨ s.hart.firmware = true) → t.hart.getM k = s.hart.getM k

def WritesBS (d : Nat) (v : EReg) (s t : State) : Prop :=
  t.hart.getBS d = v ∧ ∀ k, k ≠ d → t.hart.getBS k = s.hart.getBS k

def WritesAP (d : Nat) (v : APReg) (s t : State) : Prop :=
  t.hart.getAP d = v ∧ ∀ k, k ≠ d → t.hart.getAP k = s.hart.getAP k

/-- Registers outside a group keep their contents. -/
def OthersKept (r g : Nat) (s t : State) : Prop :=
  ∀ k, (k < r ∨ r + g ≤ k) → t.hart.own.reg k = s.hart.own.reg k

/-- A group of `w`-bit elements after R92 and R93: an active element takes `new`, an inactive one is kept or zeroed, and the
tail is kept or zeroed; no other vector register changes. -/
def WritesGroup (c : Cfg) (w g : Nat) (msk : Nat) (mz : Bool) (r : Nat) (new : Nat → Nat) (s t : State) : Prop :=
  (∀ e, e < elemsOf g w →
    elemAt w (t.hart.own.group r g) e =
      if e < c.vl then
        if s.hart.selected msk e then new e % 2 ^ w else if mz then 0 else elemAt w (s.hart.own.group r g) e
      else if c.tailz then 0 else elemAt w (s.hart.own.group r g) e) ∧
  OthersKept r g s t

/-- The container of element `e` of the group at a register. -/
def State.bitsOf (s : State) (c : Cfg) (r : Reg) (e : Nat) : Nat := elemAt c.w (s.hart.own.group r.toNat c.g) e

/-- As `WritesGroup`, in the hart's own file or in the follower core's (R151). -/
def WritesFile (far : Bool) (c : Cfg) (g : Nat) (msk : Nat) (mz : Bool) (r : Nat) (new : Nat → Nat) (s t : State) : Prop :=
  (∀ e, e < elemsOf g c.w →
    elemAt c.w ((t.hart.file far).group r g) e =
      if e < c.vl then
        if s.hart.selected msk e then new e % 2 ^ c.w else if mz then 0 else elemAt c.w ((s.hart.file far).group r g) e
      else if c.tailz then 0 else elemAt c.w ((s.hart.file far).group r g) e) ∧
  ∀ k, (k < r ∨ r + g ≤ k) → (t.hart.file far).reg k = (s.hart.file far).reg k

/-- A register whose low bits hold a result, the rest being tail (R93, R136); with VL = 0 only the tail is written. No other vector
register changes. -/
def WritesLow (c : Cfg) (r bits v : Nat) (s t : State) : Prop :=
  t.hart.own.reg r = (if c.vl = 0 then s.hart.own.reg r else v) % 2 ^ bits + (if c.tailz then 0 else s.hart.own.reg r / 2 ^ bits * 2 ^ bits) ∧ OthersKept r 1 s t

/-- FFLAGS after the flags of the active elements: they are sticky (R18). -/
def FlagsOf (l : List Flags) (s t : State) : Prop :=
  t.hart.csr.fflags = s.hart.csr.fflags ||| (l.foldl (· ||| ·) 0).setWidth 64

/-- A mask destination after R92 and R93; m7 reads as zero while ELX is 0 (R94). -/
def WritesMask (c : Cfg) (msk : Nat) (mz : Bool) (d : Nat) (new : Nat → Bool) (s t : State) : Prop :=
  (∀ e, e < 8192 → (t.hart.getM d).getLsbD e =
    if d = 7 ∧ s.hart.csr.elx = 0 then false
    else if e < c.vl then if s.hart.selected msk e then new e else !mz && (s.hart.getM d).getLsbD e
    else !c.tailz && (s.hart.getM d).getLsbD e) ∧
  ∀ k, k ≠ d → (k ≠ 7 ∨ s.hart.firmware = true) → t.hart.getM k = s.hart.getM k

/-! Exact values and rounding. -/

/-- A finite value as an integer, in units of a power of two that is no higher than its last bit. -/
def Val.units (low : Int) : Val → Int
  | .fin n m e => signedAt n m e low
  | _ => 0

/-- The larger of two neighbours is chosen for a magnitude between them; `odd`: the last bit of the smaller one is set (R111, R115). -/
def Rnd.up (rnd : Rnd) (neg odd : Bool) (lo x hi : Nat) : Bool :=
  match rnd.mode with
  | .rne => decide (hi - x < x - lo) || (hi - x == x - lo && odd)
  | .rtz => false
  | .rdn => neg
  | .rup => !neg
  | .rna => decide (hi - x ≤ x - lo)
  | .sr => decide (2 ^ 32 ≤ (x - lo) * 2 ^ 32 / (hi - lo) + rnd.r)

/-! Sums in no fixed order. -/

/-- Parts are added in pairs, any two at a time, each sum rounded to FP32 with the random word of the highest element index in it,
until one part is left (R122, R137). -/
inductive Combines (csr : Csrs) (mode : Mode) : List Part → Flags → Part → Flags → Prop where
  | done (p : Part) (f : Flags) : Combines csr mode [p] f p f
  | add {l : List Part} {f g : Flags} {r : Part} (i j : Nat) (a b : Part) (ha : l[i]? = some a) (hb : (l.eraseIdx i)[j]? = some b)
      (h : Combines csr mode
        (⟨fp32.value (fp32.round (csr.rnd mode (max (a.top.getD 0) (b.top.getD 0))) false (a.value.add mode b.value).1).1,
          some (max (a.top.getD 0) (b.top.getD 0))⟩ :: (l.eraseIdx i).eraseIdx j)
        (f ||| (a.value.add mode b.value).2 |||
          (fp32.round (csr.rnd mode (max (a.top.getD 0) (b.top.getD 0))) false (a.value.add mode b.value).1).2) r g) :
      Combines csr mode l f r g

/-- An unordered sum of a start value and indexed elements; with no element it is the start value, a NaN made canonical (R107,
R137). -/
def SumOf (csr : Csrs) (mode : Mode) (start : Nat) (l : List (Nat × Val)) (v : Nat) (f : Flags) : Prop :=
  (l = [] ∧ v = canonical fp32 start ∧ f = 0) ∨
  (l ≠ [] ∧ ∃ p, Combines csr mode (⟨fp32.value start, none⟩ :: l.map fun q => ⟨q.2, some q.1⟩) 0 p f ∧
    v = (fp32.round { mode := .rne } false p.value).1)

/-- DECLOSS after an instruction whose destination is `d`: an access-side result of a source that the access unit has to wait for is one
loss of decoupling (R11, R125, R272). -/
def CountsLoss (d : Reg) (srcs : List Reg) (s t : State) : Prop :=
  t.hart.counters.decloss =
    if s.hart.waiting = none ∧ d ≠ 0 ∧ d.toNat < 32 ∧ ∃ r ∈ srcs, 32 ≤ r.toNat ∨ s.hart.fromXu.getLsbD r.toNat then
      satIncr s.hart.counters.decloss
    else s.hart.counters.decloss

/-! Conditions. -/

/-- An access of `n` bytes passes every check of R76, no older command of the hart holds its bytes, and what it reads, on the
read-only path with `ro`, is not poisoned once the access has claimed its place (R211). -/
def Accessible (s : State) (q : Req) (b : Base) (o : Int) (n : Nat) (ea : Word) (t : Target) (ro : Bool := false) : Prop :=
  s.checkAccess q b o n = .ok (ea, .at_ t) ∧ s.claimed q.place t n q.write = false ∧
  (q.write = false → (s.touch q t).poisonedRead q t n ro = false)

/-- A die's fault-record queue takes no record of another page fault now: it is full, or a hart is in the middle of writing the records
of one (R362, R364). -/
def Die.queueFull (d : Die) : Bool := d.writer.isSome || decide (faultCapacity ≤ d.faults.length)

/-- A byte of a target as an agent sees it. A store to a scratchpad or a weight store is not held back. -/
def State.seen (s : State) (q : Place) (t : Target) (a : Nat) : Byte :=
  match t with
  | .page _ => s.byteAt q a
  | _ => s.mem.get 0 a

/-- A pending store covers some of `n` bytes of a target that is no page: no run reaches such a state, since only stores to pages
pend. -/
def State.heldBack (s : State) (t : Target) (a n : Nat) : Bool :=
  match t with
  | .page _ => false
  | _ => s.pend.any fun w => w.overlaps a n

/-- A store to the byte is discarded: the device writes it alone, or no port can deliver it (R201, R314, R388). -/
def State.loses (s : State) (a : Nat) : Bool := s.deviceOwns a || s.unreachable a

/-- An agent sees a store of `q` to a target before the package does: one to a page its die's agents, one to a read-duplicated page
its own hart; any other store every agent (R210, R385, R386). -/
def Target.seenAtOnce (t : Target) (q r : Place) : Bool :=
  match t with
  | .page _ => if t.replicated.isSome then q == r else q.die == r.die
  | _ => true

/-- Memory, poison, the stores on their way, owner tags and TLB copies are as an access to one target leaves them (R211, R229,
R231). -/
def AfterTouch (q : Req) (t : Target) (s u : State) : Prop :=
  (∀ r a, u.byteAt r a = (s.touch q t).byteAt r a) ∧ (∀ r d, u.poisonFrom r d d = (s.touch q t).poisonFrom r d d) ∧
  u.pend = (s.touch q t).pend ∧ u.storeSeq = s.storeSeq ∧ u.tags = (s.touch q t).tags ∧ u.tlb = (s.touch q t).tlb

/-- One store at a target: its bytes as the storing agent sees them, no other byte, and the poison that it clears (R214); the agents
that do not see it yet read what they read before. Who sees it at once, and that the poison travels with the bytes, is the model's choice
(notes/assumptions/12.md, 9.md). -/
def AfterStore (q : Req) (t : Target) (bytes : List Byte) (s u : State) : Prop :=
  (∀ r a, (a < t.pa ∨ t.pa + bytes.length ≤ a ∨ t.seenAtOnce q.place r = false) → u.byteAt r a = (s.touch q t).byteAt r a) ∧
  (∀ k < bytes.length, s.loses (t.pa + k) = false → s.heldBack t (t.pa + k) 1 = false →
    u.seen q.place t (t.pa + k) = bytes.getD k 0) ∧
  (∀ r d, (t.seenAtOnce q.place r = false ∨ 8 * d < t.pa ∨ t.pa + bytes.length < 8 * d + 8) →
    u.poisonFrom r d d = (s.touch q t).poisonFrom r d d) ∧
  (∀ d, t.pa ≤ 8 * d → 8 * d + 8 ≤ t.pa + bytes.length → (∀ k < bytes.length, s.loses (t.pa + k) = false) →
    s.heldBack t (8 * d) 8 = false → u.poisonFrom q.place d d = false) ∧
  u.tags = (s.touch q t).tags ∧ u.tlb = (s.touch q t).tlb

/-- Placed elements one after another, each by `put`. -/
def State.eachPlaced (put : Nat → Target → State → State) : State → List Placed → State
  | s, [] => s
  | s, p :: rest =>
    match p.loc with
    | .absent _ => State.eachPlaced put s rest
    | .at_ t => State.eachPlaced put (put p.idx t s) rest

/-- What the accesses to placed elements leave on their way. -/
def State.touchAll (q : Req) (s : State) (l : List Placed) : State := State.eachPlaced (fun _ t s => s.touch q t) s l

/-- The state with a release of the hart's accesses, if ORD asks for one (R77, R149). -/
def State.releasedIf (s : State) (ord : BitVec 2) (scope : BitVec 3) : State :=
  if ord.getLsbD 1 then s.release s.hart.place scope.toNat else s

/-- The stores that the hart's later writes follow after an access with ORD (R261, R262): those it can have seen, after an acquire at
package scope. It is stronger than those rules ask: the model's choice, notes/assumptions/84.md. -/
def State.orderedIf (s : State) (ord : BitVec 2) (scope : BitVec 3) : List Nat :=
  if ord.getLsbD 0 ∧ 4 ≤ scope.toNat then s.seenStores s.hart.place else s.hart.ordered

/-- The stores of a vector instruction, each preceded by a release if ORD asks for one, and its own elements released at the end
(R149). `data` answers the bytes of an element and the bits that it writes of each; none for one that another element's store takes with
it. -/
def State.storeAll (q : Req) (ord : BitVec 2) (scope : BitVec 3) (data : Nat → Option (List Byte × Byte)) (s : State) (l : List Placed) : State :=
  (State.eachPlaced (fun e t s =>
    let u := (s.touch q t).releasedIf ord scope
    (data e).elim u fun d => u.writeTarget q t d.1 (mask := d.2)) s l).releasedIf ord scope

/-- What the store of element `e` writes (R146): its bytes; or, of sub-byte elements, a byte with the bits of all those in it that are
active, with the lowest of them. -/
def Cfg.stored (c : Cfg) (active : Nat → Prop) [DecidablePred active] (value : Nat → Nat) (e : Nat) : Option (List Byte × Byte) :=
  if 8 ≤ c.w then some (toBytes (c.w / 8) (value e), 0xFF)
  else
    let n := 8 / c.w
    let here (k : Nat) : Nat := e / n * n + k
    let bits (f : Nat → Nat) : Byte := BitVec.ofNat 8 ((List.range n).map fun k => if active (here k) then f (here k) % 2 ^ c.w * 2 ^ (c.w * k) else 0).sum
    if ∃ k < e % n, active (here k) then none else some ([bits value], bits fun _ => 2 ^ c.w - 1)

/-! Accesses of several elements, in order. -/

/-- One read at a target that the access has touched: the state that it leaves and the value. -/
def State.readHere (s : State) (q : Req) (t : Target) (n : Nat) (ro : Bool) : State × Nat :=
  if ro && t.cached then (s.keepReadOnly q t, s.readOnlyNat q t n) else (s, s.readAt q t n)

/-- One read at a target: the state that it leaves and the value. -/
def State.readOnce (s : State) (q : Req) (t : Target) (n : Nat) (ro : Bool) : State × Nat := (s.touch q t).readHere q t n ro

/-- Reads of placed elements: the state that they leave and each element's value. -/
def State.readAll (q : Req) (n : Nat) (ro : Bool) : State → List Placed → State × List (Nat × Nat)
  | s, [] => (s, [])
  | s, p :: rest =>
    match p.loc with
    | .absent _ => State.readAll q n ro s rest
    | .at_ t =>
      let r := s.readOnce q t n ro
      let l := State.readAll q n ro r.1 rest
      (l.1, (p.idx, r.2) :: l.2)

/-- Reads of placed elements that the access has touched. -/
def State.readPlaced (q : Req) (n : Nat) (ro : Bool) : State → List Placed → State × List (Nat × Nat)
  | s, [] => (s, [])
  | s, p :: rest =>
    match p.loc with
    | .absent _ => State.readPlaced q n ro s rest
    | .at_ t =>
      let r := s.readHere q t n ro
      let l := State.readPlaced q n ro r.1 rest
      (l.1, (p.idx, r.2) :: l.2)

/-- Reads of elements that perform in groups, each group as one (R310). -/
def State.readGroups (q : Req) (n : Nat) (ro : Bool) : State → List (List Placed) → State × List (Nat × Nat)
  | s, [] => (s, [])
  | s, g :: rest =>
    let r := State.readPlaced q n ro (s.touchAll q g) g
    let l := State.readGroups q n ro r.1 rest
    (l.1, r.2 ++ l.2)

/-- Atomics of placed elements: the state that they leave, each element's old value, and the flags. -/
def State.atomicAll (q : Req) (n : Nat) (f : Nat → Nat → Option Nat × Flags) : State → List Placed → State × List (Nat × Nat) × List Flags
  | s, [] => (s, [], [])
  | s, p :: rest =>
    match p.loc with
    | .absent _ => State.atomicAll q n f s rest
    | .at_ t =>
      let r := (s.touch q t).atomicAt q t n (f p.idx)
      let l := State.atomicAll q n f r.1 rest
      (l.1, (p.idx, r.2.1) :: l.2.1, r.2.2 :: l.2.2)

/-- Every element is present, and no older command of the hart holds its bytes. -/
def Present (s : State) (q : Req) (n : Nat) (l : List Placed) : Prop :=
  ∀ p ∈ l, ∃ t, p.loc = .at_ t ∧ s.claimed q.place t n q.write = false

/-- No element of a load meets poison, each once it has claimed its place. -/
def CleanReads (q : Req) (n : Nat) (ro : Bool) : State → List Placed → Prop
  | _, [] => True
  | s, p :: rest =>
    match p.loc with
    | .absent _ => CleanReads q n ro s rest
    | .at_ t => (s.touch q t).poisonedRead q t n ro = false ∧ CleanReads q n ro (s.readOnce q t n ro).1 rest

/-- No group of elements meets poison, each once its group has claimed its places. -/
def CleanGroups (q : Req) (n : Nat) (ro : Bool) : State → List (List Placed) → Prop
  | _, [] => True
  | s, g :: rest =>
    (∀ p ∈ g, ∀ t, p.loc = .at_ t → (s.touchAll q g).poisonedRead q t n ro = false) ∧
    CleanGroups q n ro (State.readPlaced q n ro (s.touchAll q g) g).1 rest

/-- The state in which the poison of atomics is checked: each place claimed, the stores to its bytes that the hart sees performed. -/
def State.settleTargets (q : Req) (n : Nat) : State → List Target → State
  | s, [] => s
  | s, t :: rest => State.settleTargets q n ((s.touch q t).settle q t.pa n) rest

/-- No element of a vector atomic meets poison, before the first performs or as it performs (R246, R252). -/
def CleanAtomics (q : Req) (n : Nat) (f : Nat → Nat → Option Nat × Flags) (s : State) (l : List Placed) : Prop :=
  (∀ p ∈ l, ∀ t, p.loc = .at_ t → (s.settleTargets q n (targetsOf l)).poisonIn q.place t.pa t.pa n = false) ∧
  go (s.settleTargets q n (targetsOf l)) l
where
  go : State → List Placed → Prop
    | _, [] => True
    | s, p :: rest =>
      match p.loc with
      | .absent _ => go s rest
      | .at_ t => (s.touch q t).poisonIn q.place t.pa t.pa n = false ∧ go ((s.touch q t).atomicAt q t n (f p.idx)).1 rest

/-- The state with the stores to some bytes that the hart sees performed, as a home slice reads them. -/
def State.atSlice (s : State) (q : Req) (t : Target) (n : Nat) : State := (s.touch q t).settle q t.pa n

/-- Atomics of the words of points, each point's places claimed first; a word that is poisoned is left as it is (R351, R352). -/
def State.addPoints (q : Req) (n : Nat) (f : Nat → Nat → Option Nat × Flags) : State → List (List Placed) → State × List Flags
  | s, [] => (s, [])
  | s, g :: rest =>
    let r := words (s.touchAll q g) g
    let l := State.addPoints q n f r.1 rest
    (l.1, r.2 ++ l.2)
where
  words : State → List Placed → State × List Flags
    | s, [] => (s, [])
    | s, p :: rest =>
      match p.loc with
      | .absent _ => words s rest
      | .at_ t =>
        let u := s.atSlice q t n
        if u.poisonIn q.place t.pa t.pa n then words u rest
        else
          let r := u.atomicAt q t n (f p.idx)
          let l := words r.1 rest
          (l.1, r.2.2 :: l.2)

/-- Two states agree on memory and poison as every agent sees them, on owner tags and TLB copies. -/
def SameMemory (u v : State) : Prop :=
  (∀ r a, u.byteAt r a = v.byteAt r a) ∧ (∀ r d, u.poisonFrom r d d = v.poisonFrom r d d) ∧ u.tags = v.tags ∧ u.tlb = v.tlb

/-! Rings and what a home slice serves (R201, R294, R297). -/

/-- A part of a ring object that passes its checks: `n` bytes aligned to `n`, in a translated page of ordinary class; where it is
read, they are not poisoned. -/
def RingPage (s : State) (q : Req) (a : Word) (n : Nat) (t : Target) (reads : Bool := true) : Prop :=
  a.toNat < 2 ^ 56 ∧ a.toNat % n = 0 ∧ regionOf q.place.die a = .paged ∧
  s.checkAccess { q with only := [0] } (.plain a) 0 n = .ok (a, .at_ t) ∧ (reads = true → (s.touch q t).poisonIn q.place t.pa t.pa n = false)

/-- Parts of a ring object that pass their checks one after another, each once those before it have been claimed. -/
def RingPages (q : Req) (n : Nat) (reads : Bool) : State → List (Word × Target) → Prop
  | _, [] => True
  | s, p :: rest => RingPage s q p.1 n p.2 reads ∧ RingPages q n reads (s.touch q p.2) rest

/-- Parts of a ring object that an instruction reads and writes, each with its place for the write and for the read, pass their checks one
after another. -/
def RingReads (q : Req) (n : Nat) : State → List (Word × Target × Target) → Prop
  | _, [] => True
  | s, p :: rest =>
    let q' := { q with write := false, atomic := false }
    RingPage s q p.1 n p.2.1 ∧ RingPage (s.touch q p.2.1) q' p.1 n p.2.2 ∧ RingReads q n ((s.touch q p.2.1).touch q' p.2.2) rest

/-- What those checks leave. -/
def State.touchReads (q : Req) (s : State) (ts : List (Target × Target)) : State :=
  ts.foldl (fun s t => (s.touch q t.1).touch { q with write := false, atomic := false } t.2) s

/-- What the checks of targets leave. -/
def State.touchTargets (q : Req) (s : State) (ts : List Target) : State := ts.foldl (fun s t => s.touch q t) s

/-- Reads at a home slice, one after another. -/
def State.sliceAll (q : Req) (n : Nat) : State → List Target → State × List Nat
  | s, [] => (s, [])
  | s, t :: rest =>
    let u := s.atSlice q t n
    let l := State.sliceAll q n u rest
    (l.1, u.memNat t.pa n :: l.2)

/-- A write at a home slice. -/
def State.sliceSet (s : State) (q : Req) (t : Target) (n v : Nat) : State := s.putHome q t (toBytes n v)

/-- A ring's header passes its checks, for the instruction's own access and for a read, and is read. -/
def HeaderAt (s : State) (q : Req) (ring : Word) (r : Ring) (t : Target) (u : State) : Prop :=
  let q' := { q with write := false, atomic := false }
  ∃ t', RingPage s q ring 64 t ∧ RingPage (s.touch q t) q' ring 64 t' ∧ u = ((s.touch q t).touch q' t').atSlice q t 64 ∧
    r = ringOf (u.memNat t.pa 64) ∧ r.ok (u.memNat t.pa 64) = true

/-- What a push with a ring claims (R296): a free slot whose buffer has room for what the command writes there. -/
def Claims (s : State) (ring : Option Word) (need : Option Nat) (c : Option (BitVec 32 × Ring × Target)) (u : State) : Prop :=
  match ring with
  | none => c = none ∧ u = s
  | some a => ∃ r t, HeaderAt s (s.hart.req (write := true) (atomic := true)) a r t u ∧ (∀ n, need = some n → n ≤ r.ssize) ∧
      (r.cptr - r.rptr).toNat ≠ r.slots ∧ c = some (r.cptr, r, t)

/-- L of a place in the table of R288, with 300 cycles for each hop between dies of the 2 × 2 package; none for a place that is not known
yet. `cached`: a second-level cache of the die held the side. -/
def Located.row (die : Nat) (cached : Bool) : Located → Option Nat
  | .at_ (.scratch ..) => some 40
  | .at_ (.weights pa) => some (600 + far ((pa - 2 ^ 40) / 2 ^ 32))
  | .at_ (.page x) => some (
    if cached then 200 else if 2 ^ 51 ≤ x.pa then 4000
    else 600 + far (if x.pa < 2 ^ 40 then x.pa / 2 ^ 37 else (x.pa - 2 ^ 40) / 2 ^ 32))
  | .absent _ => none
where
  far (home : Nat) : Nat := (if home % 2 = die % 2 then 0 else 300) + if home / 2 % 2 = die / 2 % 2 then 0 else 300

/-- L of a side: the largest over its addresses. What a cache holds and in which row a missing page will lie are open
(notes/assumptions/8.md). -/
def SideLatency (die : Nat) (l : List (Word × Located)) (n : Nat) : Prop :=
  ∃ cached, ∃ unknown ∈ [600, 900, 1200, 4000], n = (l.map fun p => (p.2.row die cached).getD unknown).foldl max 0

/-- The promise of a command whose sides lie at two lists of places (R288), none beyond the counter's last value; an index list adds a row of
its own, and which one is open in part (notes/assumptions/8.md). -/
def Promises (s : State) (a b : List (Word × Located)) (indexed : Bool) (bytes : Nat) (promise : Word) : Prop :=
  ∃ l1 l2 l3, SideLatency s.hart.place.die a l1 ∧ SideLatency s.hart.place.die b l2 ∧ (indexed = false → l3 = 0) ∧
    (indexed = true → l3 ∈ [40, 200, 600, 900, 1200, 4000]) ∧
    promise = BitVec.ofNat 64 (min (2 ^ 64 - 1) (max s.cycle.toNat s.hart.promise.toNat + max (max l1 l2) l3 + (bytes + 63) / 64))

/-- The image that MKOUT marks (R392). -/
def MarkImage (p : APReg) : Prop :=
  APReg.wellFormed p = true ∧ APReg.indexed p = false ∧ APReg.dims p = 2 ∧ APReg.esz p = 0 ∧ APReg.stride p 0 = 1 ∧
  APReg.count p 0 % 8 = 0 ∧ 8 ≤ APReg.count p 0 ∧ APReg.count p 0 ≤ 16384 ∧
  APReg.count p 1 % 8 = 0 ∧ 8 ≤ APReg.count p 1 ∧ APReg.count p 1 ≤ 16384 ∧ (APReg.count p 0 : Int) ≤ APReg.stride p 1

/-- CPTR moves past the claimed slot. -/
def State.claimedSlot (u : State) (c : Option (BitVec 32 × Ring × Target)) : State :=
  match c with
  | none => u
  | some c => u.sliceSet (u.hart.req (write := true) (atomic := true)) c.2.2 64 { c.2.1 with cptr := c.2.1.cptr + 1 }.bits

/-! Engine commands. -/

/-- What COPYCV makes of element `e`, and its flags (R291). -/
def CmdKind.converts : CmdKind → Nat → Nat → Nat × Flags
  | .copyCv _ conv mode sat _ _ seed srbase, e, v =>
    let from_ := if conv < 2 then bf16 else if conv = 2 then e4m3 else e5m2
    let dest := if conv = 0 then e4m3 else if conv = 1 then e5m2 else bf16
    let rnd : Rnd :=
      if mode = 1 then { mode := .rtz }
      else if mode = 2 then { mode := .sr, r := randomWord seed (srbase + BitVec.ofNat 64 e) }
      else { mode := .rne }
    let r := dest.round rnd sat (from_.value v)
    (r.1, r.2 ||| nvOf [from_.value v])
  | _, _, v => (v, 0)

/-- The two sides of a command that moves elements, and whether it fills a weight store. -/
def CmdKind.sides : CmdKind → Option (Side × Side × Bool)
  | .copy _ src dst | .copyCv _ _ _ _ src dst _ _ => some (src, dst, false)
  | .wsload _ src dst => some (src, dst, true)
  | _ => none

/-- The words of the index lists that an element uses are read: what they are and the state afterwards. -/
def ListsRead (s : State) (c : Cmd) (src dst : Side) (e1 e2 : Nat) (u : State) : Prop :=
  ∃ v, listWord c src c.done s = .ok e1 v ∧ listWord c dst c.done v = .ok e2 u

/-- The element that a command comes to moves from its place to its new one, converted and with its poison; WSLOAD takes the weight store
(R221, R286, R290, R291, R293). -/
def MovesElem (s : State) (c : Cmd) (u : State) (fl : Flags) (n : Nat) : Prop :=
  ∃ src dst store e1 e2 v va t vb t', c.kind.sides = some (src, dst, store) ∧ ListsRead s c src dst e1 e2 v ∧
    v.sideTarget c src c.done e1 false false = .ok (va, .at_ t) ∧ v.sideTarget c dst c.done e2 true store = .ok (vb, .at_ t') ∧
    (t.protected_ = true → t'.protected_ = true) ∧
    let q := src.req c.req false
    let r := v.touch q t
    let w := if store then r.ownTarget c vb else r
    u = w.writeTarget (dst.req c.req true) t' (toBytes dst.size (c.kind.converts c.done (r.readAt q t src.size)).1) (r.poisonAt q t src.size) ∧
    fl = (c.kind.converts c.done (r.readAt q t src.size)).2 ∧ n = dst.size

/-- The commands `l` become `l'` as the hart at a place retires a name: its drains of the tile that the name mapped take one number, which
no drain of a tile that it retired before has, so that the tile returns once they are complete (R165). -/
def HoldsDrains (q : Place) (n : Nat) (l l' : List Cmd) : Prop :=
  ∃ k, (∀ c ∈ l, ∀ j, c.drain? q = some j → j.retired ≠ some k) ∧
    l' = l.map fun c =>
      match c.drain? q with
      | some j => if j.name = n ∧ j.retired = none then { c with kind := .adrainm { j with retired := some k } } else c
      | none => c

/-- An atomic of a drain on a word: its task may not be rerun after it (R246, R300, R380). -/
def DrainAdds (s : State) (c : Cmd) (va : Word) (t : Target) (n : Nat) (f : Nat → Option Nat × Flags) (u : State) (fl : Flags) : Prop :=
  let q : Req := { c.req with write := true, atomic := true }
  let v := s.atSlice q t n
  ∃ t', s.locateFor q va = .ok (.at_ t') ∧ v.poisonIn q.place t.pa t.pa n = false ∧
    u = (v.atomicAt q t n f).1.mapHart c.place (fun h => { h with acted := true }) ∧ fl = (v.atomicAt q t n f).2.2

/-- The cell that a drain comes to is written or added, or, after the last cell, the maximum (R185, R298 to R300). -/
def DrainsCell (s : State) (c : Cmd) (u : State) (fl : Flags) (n : Nat) : Prop :=
  ∃ j, c.kind = .adrainm j ∧
    if c.done < j.cells.length then
      ∃ cell k off va t, j.cells[c.done]? = some (cell, k, off) ∧
        let q : Req := { c.req with write := true, atomic := j.add }
        let v := j.tile.cell j.paired (isFp j.fmt) cell
        let y := drainConvert j.fmt false 0 (j.rnd k) j.sat v.1
        s.checkAccess q (.plain j.base) off j.size = .ok (va, .at_ t) ∧ n = j.size ∧
        if j.add then ∃ f, DrainAdds s c va t j.size (fun old => Amo.apply (if isFp j.fmt then .fadd else .add) 32 old 0 y.1) u f ∧ fl = v.2 ||| y.2 ||| f
        else u = s.writeTarget q t (toBytes j.size y.1) ∧ fl = v.2 ||| y.2
    else
      ∃ a va t f, j.maxAt = some a ∧
        s.checkAccess { c.req with write := true, atomic := true } (.plain a) 0 4 .atomicAlignment = .ok (va, .at_ t) ∧ n = 0 ∧
        let m := drainMax (isFp j.fmt) (j.cells.map fun p => (j.tile.cell j.paired (isFp j.fmt) p.1).1)
        DrainAdds s c va t 4 (fun old => Amo.apply .fmax 32 old 0 m.1) u f ∧ fl = m.2 ||| f

/-- The marked pixel `p` of row `r` and column `x` of a frame (R394). -/
def markOf (w delta : Nat) (payload : Nat) (key : List Byte) (r x : Nat) (p : Byte) : Nat :=
  if (r % 8 = 2 ∨ r % 8 = 5) ∧ (x % 8 = 2 ∨ x % 8 = 5) then
    let j := x / 8 + r / 8 * (w / 8)
    if payload / 2 ^ (j % 96) % 2 = (key.getD (j / 8) 0).toNat / 2 ^ (j % 8) % 2 then p.toNat - delta else min 255 (p.toNat + delta)
  else p.toNat

/-- A frame is read whole, marked, and written with its manifest (R394, R395). -/
def MarksFrame (s : State) (c : Cmd) (u : State) (fl : Flags) (n : Nat) : Prop :=
  ∃ src dst w h delta identifier counter pixels s1 l1 s2 l2 s3, c.kind = .mkout src dst w h delta identifier counter ∧
    framePixels c src (w * h) s = .ok pixels s1 ∧ writePlaces c dst.base (w * h) s1 = .ok l1 s2 ∧
    writePlaces c (dst.base + BitVec.ofNat 64 ((w * h + 127) / 128 * 128)) 4096 s2 = .ok l2 s3 ∧ fl = 0 ∧ n = w * h + 4096 ∧
    let key := kmac256 Config.markKey (toBytes 4 counter.toNat ++ toBytes 8 identifier.toNat) ((w * h / 64 + 7) / 8) markCustom
    ∃ frame : List Byte, u = (s3.writePieces c l1 frame).writePieces c l2 (manifest w h delta identifier counter frame) ∧
      frame.length = pixels.length ∧ ∀ k < pixels.length, (frame.getD k 0).toNat =
        markOf w delta (identifier.toNat + 2 ^ 64 * counter.toNat) key (k / w) (k % w) (pixels.getD k 0)

/-- One element of a command performs: the state afterwards, its flags, and the bytes that it moves. -/
def Performs (s : State) (c : Cmd) (u : State) (fl : Flags) (n : Nat) : Prop :=
  MovesElem s c u fl n ∨ DrainsCell s c u fl n ∨ MarksFrame s c u fl n

/-- The run of filled slots from a ring's WPTR on: `n` of them, no more than are claimed, and the slot after them, whose page is present, is
not filled. -/
def FilledRun (v : State) (c : Cmd) (r : Ring) (ring : Word) (n : Nat) : Prop :=
  let at_ (k : Nat) : Word := ring + BitVec.ofNat 64 (0x40 + 8 * ((r.wptr + BitVec.ofNat 32 k).toNat % r.slots))
  n ≤ (r.cptr - r.wptr).toNat ∧ (r.cptr - r.wptr).toNat ≤ r.slots ∧ (∀ k < n, v.slotFull c (at_ k) = true) ∧
  (n = (r.cptr - r.wptr).toNat ∨ v.slotFull c (at_ n) = false ∧ ∃ t, v.ringPart c (at_ n) 8 = .ok t)

/-- The header of a command's ring and the state words of `n` slots from WPTR on have been read: A is set on their pages (R229). -/
def State.readRing (s : State) (c : Cmd) (r : Ring) (t : Target) (ring : Word) (n : Nat) : State :=
  let q : Req := { c.req with only := [0] }
  (List.range n).foldl (fun s k =>
    match s.ringPart c (ring + BitVec.ofNat 64 (0x40 + 8 * ((r.wptr + BitVec.ofNat 32 k).toNat % r.slots))) 8 with
    | .ok (some y) => s.touch q y
    | _ => s) (s.touch q t)

/-- What a command's ring receives at its completion (R287, R295, R296): the slot's state word, then WPTR past the filled slots. `v`: every
access has performed at package scope; `slot`: the state word's address. -/
def FillsRing (v : State) (c : Cmd) (u : State) (slot : Option Word) : Prop :=
  match c.ring with
  | none => u = v ∧ slot = none
  | some (ring, seq) => ∃ r t y r' t' n, v.ringHead c ring = .ok (some (r, t)) ∧
      let state := ring + BitVec.ofNat 64 (0x40 + 8 * (seq.toNat % r.slots))
      let v' := v.readRing c r t ring 0
      slot = some state ∧ v'.ringPart c state 8 = .ok (some y) ∧
      let moved := match c.kind with | .breplay _ | .bflush _ => 0 | _ => c.bytes
      let w := v'.slicePut c y 8 (2 ^ 63 + c.failure.elim 0 (fun f => 2 ^ 62 + f.1.code * 2 ^ 56) + min moved 0xFFFFFF * 2 ^ 32 + seq.toNat)
      w.ringHead c ring = .ok (some (r', t')) ∧ FilledRun w c r' ring n ∧
      let x := w.readRing c r' t' ring (n + if n = (r'.cptr - r'.wptr).toNat then 0 else 1)
      u = if n = 0 then x else x.slicePut c t' 64 { r' with wptr := r'.wptr + BitVec.ofNat 32 n }.bits

/-- A command that has done everything leaves (R270, R286 to R288): its ring, its flags and its late failure at its hart, and a missed promise. -/
def Leaves (s : State) (k : Nat) (c : Cmd) (v u : State) : Prop :=
  ∃ w slot, FillsRing (v.release c.place 4) c w slot ∧ SameMemory u w ∧ u.cmds = s.cmds.eraseIdx k ∧ u.sets = v.sets ∧
    u.hart = (if v.hart.place = c.place then { v.hart with
        csr := { v.hart.csr with fflags := v.hart.csr.fflags ||| c.flags.setWidth 64 }
        acted := v.hart.acted || c.ring.isSome
        lates := v.hart.lates ++ c.failure.elim [] fun f => [{ cause := f.1, address := f.2, seq := c.ring.elim 0 (·.2), slot }] }
      else v.hart) ∧
    (c.place.die < 4 → (u.die c.place.die).missed =
      if c.promise < s.cycle then satIncr (v.die c.place.die).missed else (v.die c.place.die).missed)

/-- The state with the access unit's reads of some scalars counted (R11, R272). -/
def State.afterReads (s : State) (l : List Reg) : State := { s with hart := s.hart.auRead l }

/-- What a load leaves changed besides its registers. -/
def loadPieces : List Piece := [.decoupling, .ordered, .memory, .poison, .stores, .tags, .tlb, .readOnly]

/-- What a store leaves changed. -/
def storePieces : List Piece := [.decoupling, .acted, .memory, .poison, .stores, .tags, .tlb, .replicas]

/-- The vector operands of an instruction are in order and none of their registers streams (R87, R123, R197, R278). -/
def OperandsOk (s : State) (l : List Opd) : Prop := ∀ o ∈ l, o.ok s.hart.task.vregs = true ∧ s.hart.streams? o = false

/-- The elements below VL that a mask selects (R92), of a group of `total` elements: VL is never above them in a run. -/
def activeElems (s : State) (total : Nat) (msk : BitVec 3) : List Nat :=
  (List.range (min s.cfg.vl total)).filter (s.hart.selected msk.toNat)

end Sys2Proof.Machine
end

