-- ==== Sys2Proof/Certificates/Slice0/Obligations.lean ====
section
/-!
DEFINITION. What is stated of the model. Each statement names the rules of spec/ that it formalises.
-/

open Sys2Proof Sys2Proof.Machine

/-! Scalar instructions (chapter 4). -/

/-- R11, R65 to R69: each member of OPC 0x01 with two sources, and each member of OPC 0x02, writes its result, and nothing else
changes; with D = x0 nothing changes. An access-side result with an execute-side source costs one loss of decoupling. A shift amount in
IMM is 0 to 63. -/
def Obligations.ScalarArithmetic : Prop :=
  (
    ∀ (o : GOp) (s : State),
      let a := s.x o.a
      let b := s.x o.b
      let n := b.toNat % 64
      ∀ p ∈ [
        (Instr.add o, BitVec.ofNat 64 (a.toNat + b.toNat)),
        (Instr.sub o, BitVec.ofInt 64 (a.toInt - b.toInt)),
        (Instr.and o, a &&& b),
        (Instr.or o, a ||| b),
        (Instr.xor o, a ^^^ b),
        (Instr.andn o, a &&& ~~~b),
        (Instr.sll o, BitVec.ofNat 64 (a.toNat * 2 ^ n)),
        (Instr.srl o, BitVec.ofNat 64 (a.toNat / 2 ^ n)),
        (Instr.sra o, BitVec.ofInt 64 (a.toInt / 2 ^ n)),
        (Instr.rol o, BitVec.ofNat 64 (a.toNat * 2 ^ n) ||| BitVec.ofNat 64 (a.toNat / 2 ^ (64 - n))),
        (Instr.ror o, BitVec.ofNat 64 (a.toNat / 2 ^ n) ||| BitVec.ofNat 64 (a.toNat * 2 ^ (64 - n))),
        (Instr.slt o, if a.toInt < b.toInt then 1 else 0),
        (Instr.sltu o, if a.toNat < b.toNat then 1 else 0),
        (Instr.min o, BitVec.ofInt 64 (min a.toInt b.toInt)),
        (Instr.max o, BitVec.ofInt 64 (max a.toInt b.toInt)),
        (Instr.minu o, BitVec.ofNat 64 (min a.toNat b.toNat)),
        (Instr.maxu o, BitVec.ofNat 64 (max a.toNat b.toNat)),
        (Instr.mul o, BitVec.ofNat 64 (a.toNat * b.toNat)),
        (Instr.mulh o, BitVec.ofInt 64 (a.toInt * b.toInt / 2 ^ 64)),
        (Instr.mulhu o, BitVec.ofNat 64 (a.toNat * b.toNat / 2 ^ 64)),
        (Instr.div o, if b = 0 then -1 else BitVec.ofInt 64 (a.toInt.tdiv b.toInt)),
        (Instr.divu o, if b = 0 then -1 else BitVec.ofNat 64 (a.toNat / b.toNat)),
        (Instr.rem o, if b = 0 then a else BitVec.ofInt 64 (a.toInt - b.toInt * a.toInt.tdiv b.toInt)),
        (Instr.remu o, if b = 0 then a else BitVec.ofNat 64 (a.toNat % b.toNat))],
        Completes p.1 s (if o.d = 0 then [] else [.x, .decoupling]) fun t => WritesX o.d p.2 s t ∧ CountsLoss o.d [o.a, o.b] s t) ∧
  (
    ∀ (o : GOp) (s : State),
      let a := s.x o.a
      let i := o.imm.signExtend 64
      let n := o.imm.toNat
      let l : List Piece := if o.d = 0 then [] else [.x, .decoupling]
      (∀ p ∈ [
        (Instr.addi o, BitVec.ofInt 64 (a.toInt + o.imm.toInt)),
        (Instr.andi o, a &&& i),
        (Instr.ori o, a ||| i),
        (Instr.xori o, a ^^^ i),
        (Instr.slti o, if a.toInt < o.imm.toInt then 1 else 0),
        (Instr.sltiu o, if a.toNat < i.toNat then 1 else 0),
        (Instr.muli o, BitVec.ofInt 64 (a.toInt * o.imm.toInt)),
        (Instr.lihi o, BitVec.ofNat 64 (a.toNat % 2 ^ 32 + o.imm.toNat * 2 ^ 32))],
        Completes p.1 s l fun t => WritesX o.d p.2 s t ∧ CountsLoss o.d [o.a] s t) ∧
      (Completes (.li o) s l fun t => WritesX o.d (BitVec.ofInt 64 o.imm.toInt) s t ∧ CountsLoss o.d [] s t) ∧
      (n < 64 → ∀ p ∈ [
        (Instr.slli o, BitVec.ofNat 64 (a.toNat * 2 ^ n)),
        (Instr.srli o, BitVec.ofNat 64 (a.toNat / 2 ^ n)),
        (Instr.srai o, BitVec.ofInt 64 (a.toInt / 2 ^ n))],
        Completes p.1 s l fun t => WritesX o.d p.2 s t ∧ CountsLoss o.d [o.a] s t))


/-- R65, R67, R70: the counts, said by what they count; SEL; SHADD; and the bit fields, bit by bit, POS and LEN as R70 allows them. -/
def Obligations.CountsSelectAndBitFields : Prop :=
  ∀ (o : GOp) (s : State),
    let a := s.x o.a
    let pos := o.imm.toNat % 64
    let len := o.imm.toNat / 256 % 128
    let l : List Piece := if o.d = 0 then [] else [.x, .decoupling]
    (∃ n : Nat, n ≤ 64 ∧ (∀ k, 64 - n ≤ k → k < 64 → a.getLsbD k = false) ∧ (n < 64 → a.getLsbD (63 - n) = true) ∧
      Completes (.clz o) s l (WritesX o.d (BitVec.ofNat 64 n) s)) ∧
    (∃ n : Nat, n ≤ 64 ∧ (∀ k, k < n → a.getLsbD k = false) ∧ (n < 64 → a.getLsbD n = true) ∧
      Completes (.ctz o) s l (WritesX o.d (BitVec.ofNat 64 n) s)) ∧
    Completes (.cpop o) s l (WritesX o.d (BitVec.ofNat 64 ((List.range 64).countP fun k => a.getLsbD k)) s) ∧
    Completes (.sel o) s l (WritesX o.d (if s.x o.c ≠ 0 then a else s.x o.b) s) ∧
    Completes (.shadd o) s l (WritesX o.d (BitVec.ofNat 64 (a.toNat * 2 ^ (o.imm.toNat % 8) + (s.x o.b).toNat)) s) ∧
    (1 ≤ len → pos + len ≤ 64 →
      (∃ v : Word, (∀ k, k < 64 → v.getLsbD k = (decide (k < len) && a.getLsbD (pos + k))) ∧
        Completes (.bfx o) s l (WritesX o.d v s)) ∧
      (∃ v : Word, (∀ k, k < 64 → v.getLsbD k = a.getLsbD (pos + min k (len - 1))) ∧
        Completes (.bfxs o) s l (WritesX o.d v s)) ∧
      ∃ v : Word, (∀ k, k < 64 → v.getLsbD k =
          if pos ≤ k ∧ k < pos + len then a.getLsbD (k - pos) else (s.x o.d).getLsbD k) ∧
        Completes (.bfi o) s l (WritesX o.d v s))


/-! Control transfer (chapters 2, 4 and 15). -/

/-- R28, R36, R71, R72: a branch whose condition holds goes to its fixed target, or raises illegal branch target there; one whose
condition fails goes on in sequence. JAL and JALR link and transfer; a refused transfer writes no link. -/
def Obligations.BranchesAndJumps : Prop :=
  (
    ∀ (o : BOp) (s : State),
      let a := s.x o.a
      let b := s.x o.b
      let t : Word := BitVec.ofInt 64 (((s.hart.pc.toNat / 64 : Nat) + o.loff.toInt) * 64 + o.tslot.toNat)
      ∀ p ∈ [
        (Instr.beq o, decide (a = b)),
        (Instr.bne o, decide (a ≠ b)),
        (Instr.blt o, decide (a.toInt < b.toInt)),
        (Instr.bge o, decide (b.toInt ≤ a.toInt)),
        (Instr.bltu o, decide (a.toNat < b.toNat)),
        (Instr.bgeu o, decide (b.toNat ≤ a.toNat))],
        (p.2 = false → Completes p.1 s [.decoupling] fun _ => True) ∧
        (p.2 = true → isPc t = true → s.refusesTarget t = false → Jumps p.1 s t [.decoupling] fun _ => True) ∧
        (p.2 = true → (isPc t = false ∨ s.refusesTarget t = true) → s.hart.firmware = false →
          Traps p.1 s .illegalBranchTarget t 0 [.decoupling])) ∧
  (
    ∀ (o : BOp) (s : State), ∀ p ∈ [
        (Instr.jal o, BitVec.ofInt 64 (((s.hart.pc.toNat / 64 : Nat) + o.loff.toInt) * 64 + o.tslot.toNat)),
        (Instr.jalr o, BitVec.ofInt 64 ((s.x o.a).toInt + o.loff.toInt * 64))],
      (isPc p.2 = true → s.refusesTarget p.2 = false →
        Jumps p.1 s p.2 [.x, .decoupling] (WritesX o.d (nextPc s.hart.pc) s)) ∧
      ((isPc p.2 = false ∨ s.refusesTarget p.2 = true) → s.hart.firmware = false →
        Traps p.1 s .illegalBranchTarget p.2 0 [.decoupling]))


/-- R28, R73: LOOP counts down and repeats; a refused transfer leaves the counter as it was. R282: LOOPN steps the least index of the nest
that has passes left, zeroes those before it and repeats; when none is left every index of the nest is zero and control goes on. A refused
transfer leaves every index. R74: the loop buffer takes a body of at most 16 lines; what a taken loop of another body does to it is the
model's choice (notes/assumptions/96.md). -/
def Obligations.Loops : Prop :=
  ∀ (o : BOp) (s : State),
    let p := s.hart.getAP o.a.toNat
    let n := APReg.dims p
    let idx (u : State) (k : Nat) : Word := u.hart.csr.lidx.getD k 0
    let last (k : Nat) : Prop := APReg.count p k ≤ (idx s k + 1).toNat
    let t : Word := BitVec.ofInt 64 (((s.hart.pc.toNat / 64 : Nat) + o.loff.toInt) * 64 + o.tslot.toNat)
    let replays (u : State) : Prop :=
      if (pcLine t).toNat ≤ (pcLine s.hart.pc).toNat ∧ (pcLine s.hart.pc).toNat ≤ (pcLine t).toNat + 15 * 64 then
        ∃ b, u.hart.loop = some b ∧ b.first = pcLine t ∧ b.last = pcLine s.hart.pc
      else u.hart.loop = s.hart.loop
    (s.x o.a = 1 → Completes (.loop o) s [.x, .decoupling] (WritesX o.a 0 s)) ∧
    (s.x o.a ≠ 1 → isPc t = true → s.refusesTarget t = false →
      Jumps (.loop o) s t [.x, .decoupling, .loop] fun u => WritesX o.a (s.x o.a - 1) s u ∧ replays u) ∧
    (s.x o.a ≠ 1 → (isPc t = false ∨ s.refusesTarget t = true) → s.hart.firmware = false →
      Traps (.loop o) s .illegalBranchTarget t 0 [.decoupling]) ∧
    ((n = 0 ∨ 6 < n ∨ ∃ k < n, APReg.count p k = 0) → s.hart.firmware = false →
      Traps (.loopn o) s .illegalInstruction 0 0 []) ∧
    (1 ≤ n → n ≤ 6 → (∀ k < n, APReg.count p k ≠ 0) →
      (∀ j < n, (∀ k < j, last k) → ¬ last j →
        (isPc t = true → s.refusesTarget t = false → Jumps (.loopn o) s t [.lidx, .loop] fun u =>
          replays u ∧ ∀ k < 6, idx u k = if k < j then 0 else if k = j then idx s k + 1 else idx s k) ∧
        ((isPc t = false ∨ s.refusesTarget t = true) → s.hart.firmware = false →
          Traps (.loopn o) s .illegalBranchTarget t 0 [])) ∧
      ((∀ k < n, last k) → Completes (.loopn o) s [.lidx] fun u =>
        ∀ k < 6, idx u k = if k < n then 0 else idx s k))

/-! Scalar memory accesses (chapters 4, 11, 12, 14, 23). -/

/-- R75, R76: a scalar load that passes its checks reads its bytes, extends them and writes x[D], from memory or with RO from the
core's copy of the line (R241). No byte changes but what the access itself leaves (`AccessUpkeep`). After an acquire at package scope
the hart's later writes follow the stores that it can have seen (R261, R262): stronger than the spec, the model's choice
(notes/assumptions/84.md). -/
def Obligations.ScalarLoads : Prop :=
  ∀ (o : MOp) (s : State),
    let b := s.baseOf o.h o.a
    let q := s.hart.req (covered := b.covered)
    ∀ p ∈ [
      (Instr.ldb o, 1, fun v => (BitVec.ofNat 8 v).signExtend 64),
      (Instr.ldh o, 2, fun v => (BitVec.ofNat 16 v).signExtend 64),
      (Instr.ldw o, 4, fun v => (BitVec.ofNat 32 v).signExtend 64),
      (Instr.ldd o, 8, fun v => BitVec.ofNat 64 v),
      (Instr.ldbu o, 1, fun v => BitVec.ofNat 64 v),
      (Instr.ldhu o, 2, fun v => BitVec.ofNat 64 v),
      (Instr.ldwu o, 4, fun v => BitVec.ofNat 64 v)],
      ∀ ea t, Accessible s q b o.ofs.toInt p.2.1 ea t (o.ro == 1) →
        let v := if o.ro = 1 ∧ t.cached = true then (s.touch q t).readOnlyNat q t p.2.1 else (s.touch q t).readAt q t p.2.1
        Completes p.1 s ([.x, .decoupling, .ordered, .memory, .poison, .stores, .tags, .tlb] ++ if o.ro = 1 then [.readOnly] else []) fun u =>
          WritesX o.d (p.2.2 v) s u ∧ AfterTouch q t s u ∧
          u.hart.ordered = s.orderedIf o.ord o.scope

/-- R75, R76, R77, R214, R385: a scalar store that passes its checks writes the low bytes of x[C] at the address that it computes and
nowhere else, for the agents that see it at once, and clears the poison of a doubleword that it covers; who sees it at once, and that
the poison goes with the bytes, is the model's choice (notes/assumptions/12.md, 9.md). With a release it is released
with the hart's older stores (`FencesAndReleases`). -/
def Obligations.ScalarStores : Prop :=
  ∀ (o : MOp) (s : State),
    let b := s.baseOf o.h o.a
    let q := s.hart.req (write := true) (covered := b.covered) (view := b.handle)
    ∀ p ∈ [(Instr.stb o, 1), (Instr.sth o, 2), (Instr.stw o, 4), (Instr.std o, 8)],
      ∀ ea t, Accessible s q b o.ofs.toInt p.2 ea t →
        let bytes := (List.range p.2).map fun k => (s.x o.c).extractLsb' (8 * k) 8
        let stored := s.writeTarget q t bytes
        AfterStore q t bytes s stored ∧
        Completes p.1 s [.decoupling, .acted, .memory, .poison, .stores, .tags, .tlb, .replicas] fun u =>
          SameMemory u (stored.releasedIf o.ord o.scope) ∧ (o.ord.getLsbD 1 = false → AfterStore q t bytes s u) ∧
          u.hart.acted = (s.hart.acted || (o.ord.getLsbD 1 && decide (3 ≤ o.scope.toNat)))

/-- R76: the checks of a scalar access in their order, each with its cause; a missing page appends one fault record to the die's
queue (R364), or makes the hart wait while the queue is full (R362), which it is too while another hart is in the middle of its records
(the model's choice, notes/assumptions/95.md); bytes that an older command of the hart holds make it wait (R171, R289). A refused access
leaves A and D as they were (the model's choice, notes/assumptions/58.md). R246: the checks of a scalar atomic in their order up to its
translation, AMOFADD's under DET first. -/
def Obligations.ScalarAccessChecks : Prop :=
  (
    ∀ (o : MOp) (s : State), s.hart.firmware = false →
      let b := s.baseOf o.h o.a
      ∀ p ∈ [(Instr.ldb o, 1, false), (Instr.ldh o, 2, false), (Instr.ldw o, 4, false), (Instr.ldd o, 8, false),
          (Instr.ldbu o, 1, false), (Instr.ldhu o, 2, false), (Instr.ldwu o, 4, false),
          (Instr.stb o, 1, true), (Instr.sth o, 2, true), (Instr.stw o, 4, true), (Instr.std o, 8, true)],
        let q := s.hart.req (write := p.2.2) (covered := b.covered) (view := if p.2.2 then b.handle else none)
        let ea := s.addrAt q.asid b o.ofs.toInt
        let formed := ea.toNat < 2 ^ 56 ∧ ea.toNat % p.2.1 = 0
        (2 ^ 56 ≤ ea.toNat → Traps p.1 s .protection ea 0 [.decoupling]) ∧
        (ea.toNat < 2 ^ 56 → ea.toNat % p.2.1 ≠ 0 → Traps p.1 s .misalignedAccess ea 0 [.decoupling]) ∧
        (formed → b.refuses o.ofs.toInt p.2.1 = true → Traps p.1 s .viewBound ea b.number [.decoupling]) ∧
        (formed → b.refuses o.ofs.toInt p.2.1 = false → p.2.2 = true → b.readOnly = true →
          Traps p.1 s .sharedWrite ea b.number [.decoupling]) ∧
        (formed → b.refuses o.ofs.toInt p.2.1 = false → (p.2.2 && b.readOnly) = false →
          (regionOf s.hart.place.die ea = .unassigned → Traps p.1 s .protection ea 0 [.decoupling]) ∧
          (∀ die off, regionOf s.hart.place.die ea = .weights die off → p.2.2 = true →
            Traps p.1 s .weightStoreWrite ea 0 [.decoupling]) ∧
          (∀ x, regionOf s.hart.place.die ea = .paged → s.translate q ea = .hit x → x.entry.permits q = false →
            Traps p.1 s .protection ea 0 [.decoupling]) ∧
          (regionOf s.hart.place.die ea = .paged → s.translate q ea = .poisoned → Traps p.1 s .poisonedData ea 0 [.decoupling]) ∧
          (∀ bad, regionOf s.hart.place.die ea = .paged → s.translate q ea = .absent bad →
            ((s.die s.hart.place.die).queueFull = true → Waits p.1 s [.decoupling]) ∧
            ((s.die s.hart.place.die).queueFull = false → s.hart.place.die < 4 →
            Traps p.1 s .pageFault ea (word ((s.die s.hart.place.die).faultSeq.toNat * 2 ^ 32 + 1))
                [.decoupling, .dies, .parked, .fwEvent, .tlb] true ∧
              ∃ u, exec p.1 s = .next u ∧ (u.die s.hart.place.die).faults = (s.die s.hart.place.die).faults ++
                [faultRecord (s.hart.requester 0) q ea bad 1 s.cycle (s.die s.hart.place.die).faultSeq])) ∧
          (∀ t, s.locate q ea = .ok (.at_ t) → s.claimed q.place t p.2.1 q.write = true → Waits p.1 s [.decoupling]) ∧
          (∀ t, s.locate q ea = .ok (.at_ t) → s.claimed q.place t p.2.1 q.write = false → p.2.2 = false →
            (s.touch q t).poisonedRead q t p.2.1 (o.ro == 1) = true →
            Traps p.1 s .poisonedData ea 0 [.decoupling, .memory, .poison, .stores, .tags, .tlb] ∧
              ∃ u, exec p.1 s = .next u ∧ AfterTouch q t s u))) ∧
  (
    ∀ (o : MOp) (s : State), s.hart.firmware = false →
      let n := if o.aux.getLsbD 0 then 8 else 4
      let b := s.baseOf o.h o.a
      let q := s.hart.req (write := true) (atomic := true) (covered := b.covered)
      let ea := s.addrAt q.asid b o.ofs.toInt
      (s.hart.det = true → Traps (.amofadd o) s .determinismViolation ea 0xA00A [.decoupling]) ∧
      ∀ i ∈ [Instr.amoswap o, .amocas o, .amoadd o, .amoand o, .amoor o, .amoxor o, .amomin o, .amomax o, .amominu o, .amomaxu o,
          .amofadd o, .amofmax o, .amoincw o, .amoaddb o],
        (i = .amofadd o → s.hart.det = false) →
        ((2 ^ 56 ≤ ea.toNat ∨ regionOf s.hart.place.die ea = .unassigned) → Traps i s .protection ea 0 [.decoupling]) ∧
        (ea.toNat < 2 ^ 56 → regionOf s.hart.place.die ea ≠ .unassigned →
          (ea.toNat % n ≠ 0 → Traps i s .atomicAlignment ea 0 [.decoupling]) ∧
          (ea.toNat % n = 0 → b.refuses o.ofs.toInt n = true → Traps i s .viewBound ea b.number [.decoupling]) ∧
          (ea.toNat % n = 0 → b.refuses o.ofs.toInt n = false → b.readOnly = true →
            Traps i s .sharedWrite ea b.number [.decoupling]) ∧
          ∀ die off, ea.toNat % n = 0 → b.refuses o.ofs.toInt n = false → b.readOnly = false →
            regionOf s.hart.place.die ea = .weights die off → Traps i s .weightStoreWrite ea 0 [.decoupling]))

/-- R211, R229, R231: what an access leaves on its way. A walk sets A, and D for a write, by an OR on the entry as it stands, while V is set
in it, and leaves a copy in the core's and the die's TLB; a block of the scratchpad that another context owned last reads as zero. What a
load reads at its target is the bytes there as its agent sees them, little-endian (R4, R259), from its die's replica of a read-duplicated
page (R386); on the read-only path, without a copy of the line, the bytes that its die's agents see, or for a hart that holds an older
store to the line than its floor what the hart itself sees (R241). -/
def Obligations.AccessUpkeep : Prop :=
  ∀ (s : State) (q : Req),
    (∀ t n k, k < n → s.readAt q t n < 2 ^ (8 * n) ∧
      s.readAt q t n / 2 ^ (8 * k) % 256 = (s.byteFrom q.place (t.pa + k) (s.readAddr q t + k)).toNat ∧
      (t.replicated = none → s.readAddr q t = t.pa) ∧
      (s.seesOwn q t = true ∨ s.readOnlyLine q t = none → s.readAddr q t % 64 = t.pa % 64 → t.pa % 64 + n ≤ 64 →
        let agent := if s.seesOwn q t then q.place else dieUnit q.place.die
        s.readOnlyNat q t n / 2 ^ (8 * k) % 256 = (s.byteFrom agent (t.pa + k) (s.readAddr q t + k)).toNat)) ∧
    (∀ x, x.fresh = false → s.touch q (.page x) = s) ∧
    (∀ pa, s.touch q (.weights pa) = s) ∧
    (∀ x, (s.byteAt (dieUnit q.place.die) x.at_).getLsbD 0 = false → s.touch q (.page x) = s) ∧
    (∀ x, x.fresh = true → (s.byteAt (dieUnit q.place.die) x.at_).getLsbD 0 = true →
      let u := s.touch q (.page x)
      let e : Entry := x.entry ||| 0x80000000 ||| if q.write then 0x40000000 else 0
      ((∀ w ∈ s.pend, w.overlaps (x.at_ + 3) 1 = true → w.mask = 0xFF) →
        u.byteAt (dieUnit q.place.die) (x.at_ + 3) =
          s.byteAt (dieUnit q.place.die) (x.at_ + 3) ||| if q.write then 0xC0 else 0x80) ∧
      (∀ r a, a ≠ x.at_ + 3 → u.byteAt r a = s.byteAt r a) ∧
      (x.entry.migrating = true → u.tlb = s.tlb) ∧
      (x.entry.migrating = false →
        { die := q.place.die, core := some q.place.core, entry := e : TlbCopy } ∈ u.tlb ∧
        { die := q.place.die, core := none, entry := e : TlbCopy } ∈ u.tlb)) ∧
    (∀ off pa, (s.tags.get {} (blockKey q.place off)).owner = some q.asid → s.touch q (.scratch off pa) = s) ∧
    (∀ off pa, (s.tags.get {} (blockKey q.place off)).owner ≠ some q.asid →
      let u := s.touch q (.scratch off pa)
      let lo := scratchAddr q.place (off - off % 4096)
      (∀ a, u.mem.get 0 a = if lo ≤ a ∧ a < lo + 4096 then 0 else s.mem.get 0 a) ∧
      (u.tags.get {} (blockKey q.place off)).owner = some q.asid)

/-- R242, R254 to R256, R259, R261 to R263, R385, R386: a release, by FENCE with stores in PRED: a byte to which no store pends but those
that the hart sees (below package scope: that it holds for a read-duplicated page) is afterwards the same for every agent of the package,
and is what the hart itself saw. FENCE waits for the hart's engine commands when PRED names them; a fence with no store to release changes
no byte; with loads in PRED, at package scope, the hart's later writes follow the stores that it can have seen. FENCE.RO empties the core's
read-only lines, and what the hart holds is then older than its floor; FENCE.I empties its fetched lines and the hart's own loop buffer, and first performs the stores that the hart holds. What
an acquire orders is said in notes/assumptions/84.md. -/
def Obligations.FencesAndReleases : Prop :=
  (
    ∀ (o : GOp) (s : State) (a : Nat),
      let scope := o.imm.toNat / 256 % 8
      (o.imm.getLsbD 2 = false ∨ s.commandPending s.hart.place = false) → o.imm.getLsbD 1 = true → 1 ≤ scope → s.loses a = false →
      (∀ w ∈ s.pend, w.overlaps a 1 = true → w.visible s.hart.place = true ∧ (w.held = true ∨ 4 ≤ scope)) →
      Completes (.fence o) s [.acted, .ordered, .memory, .poison, .stores, .replicas] fun u =>
        ∀ r, u.byteAt r a = s.byteAt s.hart.place a) ∧
  (
    ∀ s : State,
      (∀ o : GOp, o.imm.getLsbD 2 = true → s.commandPending s.hart.place = true → Waits (.fence o) s []) ∧
      (∀ o : GOp, (o.imm.getLsbD 2 = false ∨ s.commandPending s.hart.place = false) →
        let scope := o.imm.toNat / 256 % 8
        (o.imm.getLsbD 1 = false ∨ scope = 0 ∨
          ∀ w ∈ s.pend, w.visible s.hart.place = false ∨ (w.held = false ∧ scope < 4)) →
        Completes (.fence o) s [.acted, .ordered] fun u =>
          u.hart.acted = (s.hart.acted || (o.imm.getLsbD 1 && decide (3 ≤ scope))) ∧
          u.hart.ordered = if o.imm.getLsbD 0 = true ∧ 4 ≤ scope then s.seenStores s.hart.place else s.hart.ordered) ∧
      (∀ i ∈ [Instr.fenceRoHart, .fenceRoCore, .fenceRoPair, .fenceRoDie, .fenceRoPkg, .fenceRoSys],
        Completes i s [.readOnly, .dies, .stores] fun u =>
          (u.readOnly = s.readOnly.filter fun l => !(l.die == s.hart.place.die && l.core == s.hart.place.core)) ∧
          u.storeSeq = s.storeSeq ∧
          u.pend = s.pend.map fun w => if w.held = true ∧ w.place = s.hart.place then { w with floored := true } else w) ∧
      Completes .fenceI s [.loop, .fetched, .dies, .memory, .poison, .stores, .replicas] fun u =>
        u.hart.loop = none ∧
        (u.fetched = s.fetched.filter fun l => !(l.die == s.hart.place.die && l.core == s.hart.place.core)) ∧
        ∀ a, s.loses a = false → (∀ w ∈ s.pend, w.overlaps a 1 = true → w.held = true ∧ w.place = s.hart.place) →
          ∀ r, u.byteAt r a = s.byteAt s.hart.place a)


/-- R245 to R247, R249, R250: a scalar atomic that passes its checks reads the old value o at its one place, writes the new
value where the table of R247 gives one, and answers o, sign-extended for 4 bytes. Only the location's bytes change; a floating-point
member sets its flags. An atomic of any scope counts as an act of R380, and an acquire orders what notes/assumptions/84.md says: both
the model's choice (notes/assumptions/99.md, 84.md). -/
def Obligations.ScalarAtomics : Prop :=
  ∀ (o : MOp) (s : State),
    let n := if o.aux.getLsbD 0 then 8 else 4
    let w := 8 * n
    let base := s.baseOf o.h o.a
    let q := s.hart.req (write := true) (atomic := true) (covered := base.covered)
    let b := (s.x o.b).toNat % 2 ^ w
    let c := (s.x o.c).toNat % 2 ^ w
    ∀ p ∈ [
      (Instr.amoswap o, fun _ => (some c, (0 : Flags))),
      (Instr.amocas o, fun old => (if old = b then some c else none, 0)),
      (Instr.amoadd o, fun old => (some ((old + c) % 2 ^ w), 0)),
      (Instr.amoand o, fun old => (some (Nat.land old c), 0)),
      (Instr.amoor o, fun old => (some (Nat.lor old c), 0)),
      (Instr.amoxor o, fun old => (some (Nat.xor old c), 0)),
      (Instr.amomin o, fun old => (some (if toSigned w c < toSigned w old then c else old), 0)),
      (Instr.amomax o, fun old => (some (if toSigned w old < toSigned w c then c else old), 0)),
      (Instr.amominu o, fun old => (some (min old c), 0)),
      (Instr.amomaxu o, fun old => (some (max old c), 0)),
      (Instr.amofadd o, fun old => ((addStep { mode := .rne } old (fp32.value c)).map some id)),
      (Instr.amofmax o, fun old =>
        let m := (fp32.value old).minmax true (fp32.value c)
        (some (fp32.round { mode := .rne } false m.1).1, m.2)),
      (Instr.amoincw o, fun old => (some (if c ≤ old then 0 else old + 1), 0)),
      (Instr.amoaddb o, fun old => (if old + b ≤ c then some (old + b) else none, 0))],
      ∀ va t, (p.1 = .amofadd o → s.hart.det = false) →
        s.precheck q base n [{ idx := 0, off := o.ofs.toInt }] = .ok [{ idx := 0, va, loc := .at_ t }] →
        s.claimed q.place t n true = false → (s.atSlice q t n).poisonIn q.place t.pa t.pa n = false →
        let v := ((s.atSlice q t n).releasedIf o.ord o.scope).atSlice q t n
        let old := v.memNat t.pa n
        Completes p.1 s [.x, .decoupling, .acted, .fflags, .ordered, .memory, .poison, .stores, .tags, .tlb, .replicas] fun u =>
          WritesX o.d ((BitVec.ofNat w old).signExtend 64) s u ∧
          (∀ r a, (a < t.pa ∨ t.pa + n ≤ a) → u.byteAt r a = v.byteAt r a) ∧
          (∀ r d, u.poisonFrom r d d = v.poisonFrom r d d) ∧
          (∀ k < n, v.loses (t.pa + k) = false →
            u.mem.get 0 (t.pa + k) = match (p.2 old).1 with
              | some new => BitVec.ofNat 8 (new / 2 ^ (8 * k))
              | none => v.mem.get 0 (t.pa + k)) ∧
          FlagsOf [(p.2 old).2] s u ∧ u.hart.acted = true ∧
          u.hart.ordered = v.orderedIf o.ord o.scope


/-! Vector arithmetic (chapters 5 and 7). -/

/-- R92, R93, R120, R121, R124, R127: the integer element-wise instructions, element by element: a and b and, for VMACC, d are read
as unsigned or as signed, and the result is reduced modulo 2^w. R117: the saturating members write the nearest result in the range, and
one that is clamped at an active element sets SAT; no other flag changes. -/
def Obligations.VectorIntegers : Prop :=
  ∀ (o : GOp) (s : State),
    let c := s.cfg
    let w := c.w
    let x : Word := if o.form = 1 then s.x o.b else o.imm.signExtend 64
    isInt c.fmt = true → OperandsOk s (Opd.of o.d c.g :: Opd.of o.a c.g :: bOpd o c.g) →
    (∀ p ∈ ([
      (Instr.vadd o, fun a b _ => toSigned w a + toSigned w b),
      (Instr.vsub o, fun a b _ => toSigned w a - toSigned w b),
      (Instr.vrsub o, fun a b _ => toSigned w b - toSigned w a),
      (Instr.vmul o, fun a b _ => toSigned w a * toSigned w b),
      (Instr.vmulh o, fun a b _ => toSigned w a * toSigned w b / 2 ^ w),
      (Instr.vmulhu o, fun a b _ => (a * b / 2 ^ w : Nat)),
      (Instr.vmin o, fun a b _ => min (toSigned w a) (toSigned w b)),
      (Instr.vmax o, fun a b _ => max (toSigned w a) (toSigned w b)),
      (Instr.vminu o, fun a b _ => (min a b : Nat)),
      (Instr.vmaxu o, fun a b _ => (max a b : Nat)),
      (Instr.vand o, fun a b _ => (Nat.land a b : Nat)),
      (Instr.vor o, fun a b _ => (Nat.lor a b : Nat)),
      (Instr.vxor o, fun a b _ => (Nat.xor a b : Nat)),
      (Instr.vsll o, fun a b _ => (a * 2 ^ (b % w) : Nat)),
      (Instr.vsrl o, fun a b _ => (a / 2 ^ (b % w) : Nat)),
      (Instr.vsra o, fun a b _ => toSigned w a / 2 ^ (b % w)),
      (Instr.vmacc o, fun a b d => toSigned w d + toSigned w a * toSigned w b),
      (Instr.vdiv o, fun a b _ => if b = 0 then -1 else (toSigned w a).tdiv (toSigned w b)),
      (Instr.vdivu o, fun a b _ => if b = 0 then -1 else (a / b : Nat)),
      (Instr.vrem o, fun a b _ => if b = 0 then a else toSigned w a - toSigned w b * (toSigned w a).tdiv (toSigned w b)),
      (Instr.vremu o, fun a b _ => if b = 0 then a else (a % b : Nat))] : List (Instr × (Nat → Nat → Nat → Int))),
      Completes p.1 s [.v] (WritesGroup c w c.g o.msk.toNat (o.mz == 1) o.d.toNat (fun e =>
        (p.2 (s.bitsOf c o.a e) (if o.form = 0 then s.bitsOf c o.b e else x.toNat % 2 ^ w) (s.bitsOf c o.d e) % 2 ^ w).toNat) s)) ∧
    ∀ p ∈ ([
      (Instr.vsadd o, true, fun a b => toSigned w a + toSigned w b),
      (Instr.vssub o, true, fun a b => toSigned w a - toSigned w b),
      (Instr.vsaddu o, false, fun a b => (a : Int) + b),
      (Instr.vssubu o, false, fun a b => (a : Int) - b)] : List (Instr × Bool × (Nat → Nat → Int))),
      let lo : Int := if p.2.1 then -(2 ^ (w - 1)) else 0
      let hi : Int := if p.2.1 then 2 ^ (w - 1) - 1 else 2 ^ w - 1
      let exact (e : Nat) : Int := p.2.2 (s.bitsOf c o.a e) (if o.form = 0 then s.bitsOf c o.b e else x.toNat % 2 ^ w)
      Completes p.1 s [.v, .fflags] fun t =>
        WritesGroup c w c.g o.msk.toNat (o.mz == 1) o.d.toNat
          (fun e => ((if exact e < lo then lo else if hi < exact e then hi else exact e) % 2 ^ w).toNat) s t ∧
        FlagsOf ((activeElems s c.vlmax o.msk).map fun e =>
          if exact e < lo ∨ hi < exact e then Flags.sat else 0) s t

/-- R92, R93, R128: a compare writes one bit of the mask register for each element; only a compare of floating-point values sets
a flag, NV, for a NaN that its condition calls invalid. m7 is no destination at task privilege (R94). -/
def Obligations.VectorCompares : Prop :=
  ∀ (o : GOp) (s : State),
    let c := s.cfg
    let w := c.w
    let x : Word := if o.form = 1 then s.x o.b else o.imm.signExtend 64
    OperandsOk s (Opd.of o.a c.g :: bOpd o c.g) → 1 ≤ o.d.toNat → (o.d.toNat < 7 ∨ o.d.toNat = 7 ∧ s.hart.firmware = true) →
    (isInt c.fmt = true → ∀ p ∈ ([
      (Instr.vcmpeq o, fun a b => a == b),
      (Instr.vcmpne o, fun a b => a != b),
      (Instr.vcmplt o, fun a b => decide (toSigned w a < toSigned w b)),
      (Instr.vcmpltu o, fun a b => decide (a < b)),
      (Instr.vcmple o, fun a b => decide (toSigned w a ≤ toSigned w b)),
      (Instr.vcmpleu o, fun a b => decide (a ≤ b)),
      (Instr.vcmpgt o, fun a b => decide (toSigned w b < toSigned w a)),
      (Instr.vcmpgtu o, fun a b => decide (b < a))] : List (Instr × (Nat → Nat → Bool))),
      Completes p.1 s [.m] (WritesMask c o.msk.toNat (o.mz == 1) o.d.toNat (fun e =>
        p.2 (s.bitsOf c o.a e) (if o.form = 0 then s.bitsOf c o.b e else x.toNat % 2 ^ w)) s)) ∧
    (isFp c.fmt = true → ∀ p ∈ ([
      (Instr.vfcmpeq o, Val.eq, Val.isSignalling),
      (Instr.vfcmplt o, Val.lt, Val.isNan),
      (Instr.vfcmple o, fun a b => a.lt b || a.eq b, Val.isNan),
      (Instr.vfcmpun o, fun a b => a.isNan || b.isNan, fun _ => false)] : List (Instr × (Val → Val → Bool) × (Val → Bool))),
      let a (e : Nat) := elemValue c.fmt c.scl (s.hart.own.exponent o.a.toNat w e) (s.bitsOf c o.a e)
      let b (e : Nat) := s.bValue c o (s.hart.own.group o.b.toNat c.g) e
      Completes p.1 s [.m, .fflags] fun t =>
        WritesMask c o.msk.toNat (o.mz == 1) o.d.toNat (fun e => p.2.1 (a e) (b e)) s t ∧
        FlagsOf ((activeElems s c.vl o.msk).map fun e =>
          if p.2.2 (a e) = true ∨ p.2.2 (b e) = true then Flags.nv else 0) s t)

/-- R92, R93, R110 to R118, R129, R130: the floating-point element-wise instructions write each active element with the exact result
of the scaled values, rounded once, and set the flags of the operation and of the rounding. VFSGNJ takes the sign bit of a NaN operand as
it stands (the model's choice against R107, notes/assumptions/18.md), and a sign operation has the flags of its rounding to another block
scale (the model's reading, notes/assumptions/114.md). -/
def Obligations.VectorFloats : Prop :=
  ∀ (o : GOp) (s : State),
    let c := s.cfg
    let own := s.hart.own
    let mode := s.hart.csr.modeOf o.fl.toNat
    let a (e : Nat) := own.elem c o.a.toNat (own.group o.a.toNat c.g) e
    let b (e : Nat) := s.bValue c o (own.group o.b.toNat c.g) e
    let z (e : Nat) := own.elem c o.c.toNat (own.group o.c.toNat c.g) e
    let all := Opd.of o.d c.g :: Opd.of o.a c.g :: bOpd o c.g
    let one := [Opd.of o.d c.g, Opd.of o.a c.g]
    isFp c.fmt = true →
    ∀ p ∈ ([
      (Instr.vfadd o, all, fun e => (a e).add mode (b e)),
      (Instr.vfsub o, all, fun e => (a e).add mode (b e).negate),
      (Instr.vfmul o, all, fun e => (a e).mul (b e)),
      (Instr.vfdiv o, all, fun e => (a e).div (b e)),
      (Instr.vfmin o, all, fun e => (a e).minmax false (b e)),
      (Instr.vfmax o, all, fun e => (a e).minmax true (b e)),
      (Instr.vfma o, Opd.of o.c c.g :: all, fun e => (a e).fma mode (b e) (z e)),
      (Instr.vfms o, Opd.of o.c c.g :: all, fun e => (a e).fma mode (b e) (z e).negate),
      (Instr.vfnma o, Opd.of o.c c.g :: all, fun e => (a e).negate.fma mode (b e) (z e)),
      (Instr.vfsgnj o, all, fun e =>
        (if (s.bElem c o (own.group o.b.toNat c.g) e).testBit (c.w - 1) then (a e).abs.negate else (a e).abs, 0)),
      (Instr.vfsqrt o, one, fun e => (a e).sqrt),
      (Instr.vfabs o, one, fun e => ((a e).abs, 0)),
      (Instr.vfneg o, one, fun e => ((a e).negate, 0)),
      (Instr.vfexp2 o, one, fun e => (a e).exp2)] : List (Instr × List Opd × (Nat → Val × Flags))),
      OperandsOk s p.2.1 →
      let put (e : Nat) := putFp c.fmt c.scl (own.exponent o.d.toNat c.w e) (s.hart.csr.rnd mode e) false (p.2.2 e).1
      Completes p.1 s [.v, .fflags] fun t =>
        WritesGroup c c.w c.g o.msk.toNat (o.mz == 1) o.d.toNat (fun e => (put e).1) s t ∧
        FlagsOf ((activeElems s c.vlmax o.msk).map fun e => (p.2.2 e).2 ||| (put e).2) s t

/-- R104, R111 to R115: the exact sum, product and fused product of finite values, the sign of a zero sum, and the order of values; the
value of an encoding; and the rounding of a finite value to a floating-point format: a representable value as it stands with no flag, else
the neighbour that the mode chooses, underflow where the value rounded with an unbounded exponent is below the smallest normal, and
overflow, which under saturation sets SAT in every mode (the model's reading, notes/assumptions/112.md). -/
def Obligations.ValuesAndRounding : Prop :=
  (
    ∀ (mode : Mode) (n n' n'' : Bool) (m m' m'' : Nat) (e e' e'' low low' : Int), low ≤ e → low' ≤ e' →
      let a := Val.fin n m e
      let b := Val.fin n' m' e'
      let c := Val.fin n'' m'' e''
      let p := a.mul b
      let y := a.add mode b
      let z := a.fma mode b c
      p.2 = 0 ∧ p.1.neg? = (n != n') ∧ p.1.units (low + low') = a.units low * b.units low' ∧
      (low ≤ e' → a.lt b = decide (a.units low < b.units low) ∧ y.2 = 0 ∧ y.1.units low = a.units low + b.units low ∧
        (a.units low + b.units low = 0 → y.1.neg? = if m = 0 ∧ m' = 0 ∧ n = n' then n else decide (mode = .rdn))) ∧
      (low + low' ≤ e'' → z.2 = 0 ∧ z.1.units (low + low') = a.units low * b.units low' + c.units (low + low'))) ∧
  (
    ∀ f ∈ [fp32, fp16, bf16, e4m3, e5m2], ∀ c < 2 ^ (f.w + f.t + 1),
      let neg := c.testBit (f.w + f.t)
      let exponent := c / 2 ^ f.t % 2 ^ f.w
      let fraction := c % 2 ^ f.t
      (c % 2 ^ (f.w + f.t) ≤ f.maxCode → (f.value c).isFinite = true ∧ (f.value c).neg? = neg ∧
        (f.value c).units (1 - (f.bias : Int) - f.t) =
          (if neg then -1 else 1) * (if exponent = 0 then fraction else (2 ^ f.t + fraction) * 2 ^ (exponent - 1) : Nat)) ∧
      (f.maxCode < c % 2 ^ (f.w + f.t) →
        if f ≠ e4m3 ∧ fraction = 0 then f.value c = .inf neg else (f.value c).isNan = true)) ∧
  (
    ∀ f ∈ [fp32, fp16, bf16, e4m3, e5m2], ∀ (rnd : Rnd) (sat n : Bool) (m : Nat) (e low : Int), low ≤ e → low ≤ f.emin - 1 →
      let r := f.round rnd sat (.fin n m e)
      let x := m * 2 ^ (e - low).toNat
      let mag (c : Nat) : Nat := ((f.value c).units low).toNat
      let sign := if n then 2 ^ (f.w + f.t) else 0
      let normal := mag (2 ^ f.t)
      let below := normal - 2 ^ (f.emin - 1 - low).toNat
      let top := mag f.maxCode
      let next := 2 * top - mag (f.maxCode - 1)
      let infinite := rnd.mode = .rne ∨ rnd.mode = .rna ∨ rnd.mode = .sr ∨ (rnd.mode = .rup ∧ n = false) ∨ (rnd.mode = .rdn ∧ n = true)
      let overflow : Nat × Flags :=
        if sat then (sign + f.maxCode, Flags.overflow ||| Flags.nx ||| Flags.sat)
        else (if infinite then (if f = e4m3 then f.nanCode else sign + f.infCode) else sign + f.maxCode, Flags.overflow ||| Flags.nx)
      (∀ c ≤ f.maxCode, mag c = x → r = (sign + c, 0)) ∧
      (∀ c < f.maxCode, mag c < x → x < mag (c + 1) →
        r = (sign + (if rnd.up n (decide (c % 2 = 1)) (mag c) x (mag (c + 1)) then c + 1 else c),
          Flags.nx ||| if x < normal ∧ ¬ (below < x ∧ rnd.up n true below x normal = true) then Flags.underflow else 0)) ∧
      (top < x → r =
        if x < next ∧ rnd.up n (decide (f.maxCode % 2 = 1)) top x next = false then (sign + f.maxCode, Flags.nx) else overflow))

/-- R92, R93, R110, R131 to R135: VCVT and VCVTFBP write each active element with the conversion of the source's value: rounded to a
floating-point type, rounded to an integer, or, between integers, kept modulo 2^w or clamped under SAT; VFCLASS writes the class of
each active element's encoding, before any block scale. VCVTBFP quantises each block of 32 elements: its exponent goes to the block's
byte of the scale register, and each mantissa is the element over that exponent, rounded and clamped; a block whose exponent is clamped
sets OF. -/
def Obligations.ClassesAndConversions : Prop :=
  (
    ∀ (o : GOp) (s : State),
      let c := s.cfg
      let own := s.hart.own
      let t := o.x.toNat % 32
      let w := container t
      let sat := o.x.getLsbD 5
      let g := max 1 (c.g * w / c.w)
      let mode := s.hart.csr.modeOf o.fl.toNat
      let src (e : Nat) : Val := own.elem c o.a.toNat (own.group o.a.toNat c.g) e
      let int (e : Nat) : Int := if isSignedInt c.fmt then toSigned c.w (s.bitsOf c o.a e) else s.bitsOf c o.a e
      let new (e : Nat) : Nat × Flags :=
        if isFp t then
          let r := putFp t (o.x.getLsbD 6) (own.exponent o.d.toNat w e) (s.hart.csr.rnd mode e) sat (src e)
          (r.1, r.2 ||| (if (src e).isSignalling then Flags.nv else 0))
        else if isFp c.fmt then toInteger w (isSignedInt t) (s.hart.csr.rnd mode e) (src e)
        else if w < c.w ∧ sat then
          let v := clampInt w (isSignedInt t) (int e)
          (ofSigned w v, if v = int e then 0 else Flags.sat)
        else (ofSigned w (int e), 0)
      (isFp c.fmt = true → OperandsOk s [Opd.of o.d c.g, Opd.of o.a c.g] →
      Completes (.vfclass o) s [.v] (WritesGroup c c.w c.g o.msk.toNat (o.mz == 1) o.d.toNat (fun e =>
        match (fpOf c.fmt).value (s.bitsOf c o.a e) with
        | .nan signalling => if signalling then 8 else 9
        | .inf neg => if neg then 0 else 7
        | .fin neg m _ =>
          if m = 0 then (if neg then 3 else 4)
          else if m < 2 ^ (fpOf c.fmt).t then (if neg then 2 else 5)
          else if neg then 1 else 6) s)) ∧
      (OperandsOk s [Opd.of o.d g, Opd.of o.a c.g] → c.g * w / c.w ≤ 8 →
      (w = c.w ∧ o.d = o.a ∨ o.d.toNat + g ≤ o.a.toNat ∨ o.a.toNat + c.g ≤ o.d.toNat) →
      ∀ p ∈ [(Instr.vcvt o, isDefined c.fmt && !isBfp c.fmt), (Instr.vcvtfbp o, isBfp c.fmt && isFp t)], p.2 = true →
        Completes p.1 s [.v, .fflags] fun u =>
          WritesGroup c w g o.msk.toNat (o.mz == 1) o.d.toNat (fun e => (new e).1) s u ∧
          FlagsOf ((activeElems s (elemsOf g w) o.msk).map fun e => (new e).2) s u)) ∧
  (
    ∀ (o : GOp) (s : State),
      let c := s.cfg
      let own := s.hart.own
      let t := o.x.toNat % 32
      let w := container t
      let k := bfpBits t
      let g := max 1 (c.g * w / c.w)
      let rnd (e : Nat) := s.hart.csr.rnd (s.hart.csr.modeOf o.fl.toNat) e
      let src (e : Nat) : Val := own.elem c o.a.toNat (own.group o.a.toNat c.g) e
      let block (j : Nat) := blockExponent
        (((List.range 32).filter fun i => decide (32 * j + i < c.vl) && s.hart.selected o.msk.toNat (32 * j + i)).map
          fun i => src (32 * j + i))
      let new (e : Nat) := bfpElem k (block (e / 32)).1 (block (e / 32)).2.2 (rnd e) (src e)
      let clamped := (List.range (elemsOf g w / 32)).any fun j => decide (32 * j < c.vl) && (block j).2.1
      OperandsOk s [Opd.of o.d g, Opd.of o.a c.g] → isFp c.fmt = true → isBfp t = true → c.g * w / c.w ≤ 8 →
      (w = c.w ∧ o.d = o.a ∨ o.d.toNat + g ≤ o.a.toNat ∨ o.a.toNat + c.g ≤ o.d.toNat) →
      Completes (.vcvtbfp o) s [.v, .e, .fflags] fun u =>
        WritesGroup c w g o.msk.toNat (o.mz == 1) o.d.toNat (fun e => ofSigned w (toSigned k (new e).1)) s u ∧
        (∀ r < g, ∀ j < 32, bitsAt (u.hart.own.scaleReg (o.d.toNat + r)) (8 * j) 8 =
          let b := r * blocksOf w + j
          if blocksOf w ≤ j then 0
          else if 32 * b < c.vl then ofSigned 8 (block b).1
          else if c.tailz then 0 else bitsAt (own.scaleReg (o.d.toNat + r)) (8 * j) 8) ∧
        (∀ r, (r < o.d.toNat ∨ o.d.toNat + g ≤ r) → u.hart.own.scaleReg r = own.scaleReg r) ∧
        FlagsOf ((if clamped then Flags.overflow else 0) :: (activeElems s (elemsOf g w) o.msk).map fun e => (new e).2) s u)


/-- R92, R93, R107, R117, R118, R136: the reductions of integers and of bits, and the ordered sum, fold the active elements in ascending
order from the start value in vB into the low bits of vD; the rest of the register is tail. With no active element the result is the
start value, a NaN made canonical; with VL = 0 only the tail is written and no flag is set (R93 before R136,
notes/assumptions/65.md). -/
def Obligations.Reductions : Prop :=
  ∀ (o : GOp) (s : State),
    let c := s.cfg
    let w := c.w
    let own := s.hart.own
    let start := own.reg o.b.toNat
    let mode := s.hart.csr.modeOf o.fl.toNat
    let active := activeElems s c.vl o.msk
    let num (v : Nat) : Int := if isSignedInt c.fmt then toSigned w v else (v % 2 ^ w : Nat)
    let el (e : Nat) := s.bitsOf c o.a e
    let val (e : Nat) := own.elem c o.a.toNat (own.group o.a.toNat c.g) e
    let ordered (l : List Nat) : Nat × Flags := l.foldl (fun acc e =>
      let y := (fp32.value acc.1).add mode (val e)
      let b := fp32.round (s.hart.csr.rnd mode e) false y.1
      (b.1, acc.2 ||| (y.2 ||| b.2))) (start % 2 ^ 32, 0)
    OperandsOk s [Opd.of o.d 1, Opd.of o.a c.g, Opd.of o.b 1] →
    (isInt c.fmt = true → ∀ p ∈ ([
      (Instr.vredsumi o, 64, ofSigned 64 (active.foldl (fun acc e => acc + num (el e)) (start % 2 ^ 64 : Nat))),
      (Instr.vredmax o, w, ofSigned w (active.foldl (fun acc e => max acc (num (el e))) (num start))),
      (Instr.vredmin o, w, ofSigned w (active.foldl (fun acc e => min acc (num (el e))) (num start))),
      (Instr.vredand o, w, active.foldl (fun acc e => Nat.land acc (el e)) (start % 2 ^ w)),
      (Instr.vredor o, w, active.foldl (fun acc e => Nat.lor acc (el e)) (start % 2 ^ w)),
      (Instr.vredxor o, w, active.foldl (fun acc e => Nat.xor acc (el e)) (start % 2 ^ w))] : List (Instr × Nat × Nat)),
      Completes p.1 s [.v] (WritesLow c o.d.toNat p.2.1 p.2.2 s)) ∧
    (isFp c.fmt = true →
      (Completes (.vredsumO o) s [.v, .fflags] fun t =>
        WritesLow c o.d.toNat 32 (if active = [] then canonical fp32 (start % 2 ^ 32) else (ordered active).1) s t ∧ FlagsOf [(ordered active).2] s t) ∧
      ∀ p ∈ [(Instr.vredmax o, true), (Instr.vredmin o, false)],
        let r := active.foldl (fun (acc : Val × Flags) e =>
          let y := acc.1.minmax p.2 (val e)
          (y.1, acc.2 ||| y.2)) (own.elem c o.b.toNat start 0, 0)
        let b := putFp c.fmt c.scl (own.exponent o.d.toNat w 0) (s.hart.csr.rnd (Mode.ofCode (s.hart.csr.frm.toNat % 8)) 0)
          false r.1
        Completes p.1 s [.v, .fflags] fun t =>
          if active = [] ∧ c.scl = false then
            WritesLow c o.d.toNat w (canonical (fpOf c.fmt) (start % 2 ^ w)) s t ∧ FlagsOf [0] s t
          else WritesLow c o.d.toNat w b.1 s t ∧ FlagsOf [if c.vl = 0 then 0 else r.2 ||| b.2] s t)

/-- R92, R93, R100, R118, R137, R138: a scan writes to each active element the fold of the start value and the active elements up to
it. The unordered sum and scan give a sum in some association, whatever the machine chose; under DET they trap, before anything else (the
model's order, notes/assumptions/20.md). -/
def Obligations.ScansAndUnorderedSums : Prop :=
  (
    ∀ (o : GOp) (s : State),
      let c := s.cfg
      let own := s.hart.own
      let start := own.reg o.b.toNat
      let mode := s.hart.csr.modeOf o.fl.toNat
      let upTo (e : Nat) := (activeElems s c.vl o.msk).filter (· ≤ e)
      let val (e : Nat) := own.elem c o.a.toNat (own.group o.a.toNat c.g) e
      let sum (l : List Nat) : Nat × Flags := l.foldl (fun acc e =>
        let y := (fp32.value acc.1).add mode (val e)
        let b := fp32.round (s.hart.csr.rnd mode e) false y.1
        (b.1, acc.2 ||| (y.2 ||| b.2))) (start % 2 ^ 32, 0)
      let apart (g : Nat) := g ≤ 8 ∧ (o.d.toNat + g ≤ o.a.toNat ∨ o.a.toNat + c.g ≤ o.d.toNat) ∧
        (o.d.toNat + g ≤ o.b.toNat ∨ o.b.toNat + 1 ≤ o.d.toNat)
      (isInt c.fmt = true → apart c.g → OperandsOk s [Opd.of o.d c.g, Opd.of o.a c.g, Opd.of o.b 1] →
        Completes (.vscani o) s [.v] (WritesGroup c c.w c.g o.msk.toNat (o.mz == 1) o.d.toNat (fun e =>
          (upTo e).foldl (fun acc k => acc + s.bitsOf c o.a k) start) s)) ∧
      (isFp c.fmt = true →
        let g := c.g * 32 / c.w
        apart g → OperandsOk s [Opd.of o.d g, Opd.of o.a c.g, Opd.of o.b 1] →
        Completes (.vscanO o) s [.v, .fflags] fun t =>
          WritesGroup c 32 g o.msk.toNat (o.mz == 1) o.d.toNat (fun e => (sum (upTo e)).1) s t ∧
          FlagsOf [(sum (activeElems s c.vl o.msk)).2] s t)) ∧
  (
    ∀ (o : GOp) (s : State),
      let c := s.cfg
      let own := s.hart.own
      let g := c.g * 32 / c.w
      let csr := s.hart.csr
      let mode := csr.modeOf o.fl.toNat
      let start := own.reg o.b.toNat % 2 ^ 32
      let elems := (activeElems s c.vl o.msk).map fun e => (e, own.elem c o.a.toNat (own.group o.a.toNat c.g) e)
      (s.hart.det = true → s.hart.firmware = false → Traps (.vredsumU o) s .determinismViolation 0 0x4501 []) ∧
      (s.hart.det = true → s.hart.firmware = false → Traps (.vscanU o) s .determinismViolation 0 0x4509 []) ∧
      (s.hart.det = false → isFp c.fmt = true → OperandsOk s [Opd.of o.d 1, Opd.of o.a c.g, Opd.of o.b 1] →
        ∃ v f, SumOf csr mode start elems v f ∧
          Completes (.vredsumU o) s [.v, .fflags, .choices] fun t => WritesLow c o.d.toNat 32 v s t ∧ FlagsOf [f] s t) ∧
      (s.hart.det = false → isFp c.fmt = true → g ≤ 8 → (o.d.toNat + g ≤ o.a.toNat ∨ o.a.toNat + c.g ≤ o.d.toNat) →
        (o.d.toNat + g ≤ o.b.toNat ∨ o.b.toNat + 1 ≤ o.d.toNat) →
        OperandsOk s [Opd.of o.d g, Opd.of o.a c.g, Opd.of o.b 1] →
        ∃ (v : Nat → Nat) (f : Nat → Flags),
          (∀ e ∈ activeElems s c.vl o.msk, SumOf csr mode start (elems.filter fun p => decide (p.1 ≤ e)) (v e) (f e)) ∧
          Completes (.vscanU o) s [.v, .fflags, .choices] fun t =>
            WritesGroup c 32 g o.msk.toNat (o.mz == 1) o.d.toNat v s t ∧
            FlagsOf ((activeElems s c.vl o.msk).map f) s t))


/-- R139, R140: VTOPK lists the k elements of highest rank (a NaN lowest, the lower index first among equals) and their indices, padded
where there are fewer; VAMAX writes the largest magnitude. With VL = 0 only the tail is written (R93 before R139 and R140,
notes/assumptions/23.md and 65.md). -/
def Obligations.Selections : Prop :=
  ∀ (o : GOp) (s : State),
    let c := s.cfg
    let own := s.hart.own
    let k := o.imm.toNat
    let active := activeElems s c.vl o.msk
    let val (e : Nat) := own.elem c o.a.toNat (own.group o.a.toNat c.g) e
    let below (a b : Nat) : Prop := (isFp c.fmt = true ∧ (val a).isNan = true ∧ (val b).isNan = false) ∨ (val a).lt (val b) = true
    let disjoint (r g r' g' : Nat) := r + g ≤ r' ∨ r' + g' ≤ r
    ((isInt c.fmt || isFp c.fmt) = true → 1 ≤ k → k ≤ 64 → k ≤ c.vlmax →
      disjoint o.d.toNat c.g o.c.toNat 1 → disjoint o.d.toNat c.g o.a.toNat c.g → disjoint o.c.toNat 1 o.a.toNat c.g →
      OperandsOk s [Opd.of o.d c.g, Opd.of o.c 1, Opd.of o.a c.g] →
      ∃ l : List Nat, l.length = min k active.length ∧ l.Nodup ∧ (∀ e ∈ l, e ∈ active) ∧
        (∀ i j a b : Nat, l[i]? = some a → l[j]? = some b → i < j → ¬ below a b ∧ (¬ below b a → a < b)) ∧
        (∀ a ∈ l, ∀ b ∈ active, b ∉ l → ¬ below a b ∧ (¬ below b a → a < b)) ∧
        Completes (.vtopk o) s [.v, .fflags] fun t =>
          (∀ e < c.vlmax, t.bitsOf c o.d e =
            if e < l.length then s.bitsOf c o.a (l.getD e 0)
            else if e < k then (if c.vl = 0 then s.bitsOf c o.d e else padElem c.fmt)
            else if c.tailz then 0 else s.bitsOf c o.d e) ∧
          (∀ e < 64, elemAt 32 (t.hart.own.reg o.c.toNat) e =
            if e < l.length then l.getD e 0 % 2 ^ 32
            else if e < k then (if c.vl = 0 then elemAt 32 (own.reg o.c.toNat) e else 0xFFFFFFFF)
            else if c.tailz then 0 else elemAt 32 (own.reg o.c.toNat) e) ∧
          (∀ r, (r < o.d.toNat ∨ o.d.toNat + c.g ≤ r) → r ≠ o.c.toNat → t.hart.own.reg r = own.reg r) ∧
          FlagsOf (active.map fun e => if (val e).isSignalling then Flags.nv else 0) s t) ∧
    (isFp c.fmt = true → OperandsOk s [Opd.of o.d 1, Opd.of o.a c.g] →
      ∃ top : Val, (∀ e ∈ active, top.lt (val e).abs = false) ∧
        (top = .zero ∨ ∃ e ∈ active, top = (val e).abs) ∧ top.isNan = false ∧
        let b := fp32.round { mode := .rne } false top
        Completes (.vamax o) s [.v, .fflags] fun t =>
          WritesLow c o.d.toNat 32 b.1 s t ∧
          FlagsOf [b.2, if active.any fun e => (val e).isNan then Flags.nv else 0] s t)

/-! Moves, masks and scales (chapter 7). -/

/-- R92, R93, R125, R141 to R143: the moves and permutes write each active element of vD with an element of a source, a scalar, an index
or a count of mask bits. The source of a permute lies apart from vD. VMERGE takes each element below VL from B or from A by the mask, and
VCOMPR moves the selected elements down; what follows them is tail. The moves between the scalar registers and one element, and the counts
of a mask, ignore VL where R141 says so, and a value for an access-side register is remembered for the loss that reading it costs (R272).
That moves keep the bits of a BFP container and of a scalar under SCL, and that a slide by a scalar takes any format, is the model's choice
(notes/assumptions/100.md, 101.md). -/
def Obligations.MovesAndPermutes : Prop :=
  (
    ∀ (o : GOp) (s : State),
      let c := s.cfg
      let d := Opd.of o.d c.g
      let a := Opd.of o.a c.g
      let n := if o.form = 1 then (s.x o.b).toNat else o.imm.toNat
      let any := isDefined c.fmt
      let apart (r : Reg) (g : Nat) : Bool := decide (o.d.toNat + c.g ≤ r.toNat ∨ r.toNat + g ≤ o.d.toNat)
      let ig := max 1 (c.g * 16 / c.w)
      let index (e : Nat) := elemAt 16 (s.hart.own.group o.b.toNat ig) e
      let num := isInt c.fmt || isFp c.fmt
      let picked := activeElems s c.vl o.msk
      (∀ p ∈ ([
        (Instr.vmv o, if o.form = 0 then any else num, if o.form = 0 then [d, a] else [d],
          fun e => if o.form = 0 then s.bitsOf c o.a e else scalarElem c.fmt (s.bScalar o)),
        (Instr.vbcast o, any && decide (o.imm.toNat < c.vlmax), [d, a], fun _ => s.bitsOf c o.a o.imm.toNat),
        (Instr.vslup o, any && apart o.a c.g, [d, a], fun e => if n ≤ e then s.bitsOf c o.a (e - n) else s.bitsOf c o.d e),
        (Instr.vsldn o, any && apart o.a c.g, [d, a], fun e => if e + n < c.vl then s.bitsOf c o.a (e + n) else 0),
        (Instr.vperm o, any && apart o.a c.g && apart o.b ig && decide (c.g * 16 / c.w ≤ 8), [d, a, Opd.of o.b ig],
          fun e => if index e < c.vl then s.bitsOf c o.a (index e) else 0),
        (Instr.viota o, isInt c.fmt, [d],
          fun e => (List.range e).countP fun k => (s.hart.getM o.a.toNat).getLsbD k),
        (Instr.vid o, isInt c.fmt, [d], fun e => e)] : List (Instr × Bool × List Opd × (Nat → Nat))),
        p.2.1 = true → OperandsOk s p.2.2.1 →
        Completes p.1 s [.v] (WritesGroup c c.w c.g o.msk.toNat (o.mz == 1) o.d.toNat p.2.2.2 s)) ∧
      ((if o.form = 0 then isDefined c.fmt else isInt c.fmt || isFp c.fmt) = true →
        OperandsOk s (Opd.of o.d c.g :: Opd.of o.a c.g :: bOpd o c.g) →
        Completes (.vmerge o) s [.v] (WritesGroup c c.w c.g 0 false o.d.toNat (fun e =>
          if (s.hart.getM o.msk.toNat).getLsbD e then
            if o.form = 0 then s.bitsOf c o.b e else scalarElem c.fmt (s.bScalar o)
          else s.bitsOf c o.a e) s)) ∧
      (isDefined c.fmt = true → OperandsOk s [Opd.of o.d c.g, Opd.of o.a c.g] →
        (o.d.toNat + c.g ≤ o.a.toNat ∨ o.a.toNat + c.g ≤ o.d.toNat) →
        Completes (.vcompr o) s [.v] fun t =>
          (∀ e < c.vlmax, t.bitsOf c o.d e =
            if e < picked.length then s.bitsOf c o.a (picked.getD e 0)
            else if c.tailz then 0 else s.bitsOf c o.d e) ∧
          OthersKept o.d.toNat c.g s t)) ∧
  (
    ∀ (o : GOp) (s : State),
      let c := s.cfg
      let bits := s.bitsOf c o.a o.imm.toNat
      let m := s.hart.getM o.a.toNat
      let toX (i : Instr) (v : Word) : Prop := Completes i s [.x, .decoupling] fun t => WritesX o.d v s t ∧
        t.hart.counters = s.hart.counters ∧ t.hart.fromXu = if 1 ≤ o.d.toNat ∧ o.d.toNat < 32
          then s.hart.fromXu ||| 1#64 <<< o.d.toNat else s.hart.fromXu &&& ~~~ (if o.d = 0 then 0 else 1#64 <<< o.d.toNat)
      let write (i : Instr) (idx : Nat) (rest : Nat → Nat) : Prop :=
        (isInt c.fmt || isFp c.fmt) = true → OperandsOk s [Opd.of o.d c.g] → idx < c.vlmax →
        Completes i s [.v] fun t =>
          (∀ e < c.vlmax, t.bitsOf c o.d e = if e = idx then scalarElem c.fmt (s.x o.b) % 2 ^ c.w else rest e) ∧
          OthersKept o.d.toNat c.g s t
      (isDefined c.fmt = true → OperandsOk s [Opd.of o.a c.g] → o.imm.toNat < c.vlmax →
        toX (.vmvxs o) (if isSignedInt c.fmt then BitVec.ofInt 64 (toSigned c.w bits) else BitVec.ofNat 64 bits)) ∧
      write (.vmvsx o) 0 (fun _ => 0) ∧
      write (.vins o) o.imm.toNat (s.bitsOf c o.d) ∧
      toX (.mpopc o) (BitVec.ofNat 64 ((List.range c.vl).countP fun e => m.getLsbD e)) ∧
      (∀ e < c.vl, m.getLsbD e = true → (∀ k < e, m.getLsbD k = false) → toX (.mfirst o) (BitVec.ofNat 64 e)) ∧
      ((∀ e < c.vl, m.getLsbD e = false) → toX (.mfirst o) (-1)))


/-- R88, R144: EMV copies a scale group, all 32 bytes of a register (the model's choice of R144 against R88, notes/assumptions/80.md), and
ESET fills every block of one with a byte; a container above 8 bits has no scales. R93, R94, R143: the mask instructions write the bits
below VL, the rest being tail; MMV copies the whole register. -/
def Obligations.MaskAndScaleInstructions : Prop :=
  ∀ (o : GOp) (s : State),
    let a (e : Nat) := (s.hart.getM o.a.toNat).getLsbD e
    let b (e : Nat) := (s.hart.getM o.b.toNat).getLsbD e
    let c := s.cfg
    let e (t : State) (r : Nat) := t.hart.own.scaleReg r
    let inFile (r : Reg) : Prop := r.toNat % c.g = 0 ∧ r.toNat + c.g ≤ 64
    let kept (t : State) : Prop := ∀ r, (r < o.d.toNat ∨ o.d.toNat + c.g ≤ r) → e t r = e s r
    (c.w ≤ 8 → inFile o.d → Completes (.eset o) s [.e] fun t => kept t ∧ ∀ k < c.g, ∀ j < 32,
      bitsAt (e t (o.d.toNat + k)) (8 * j) 8 =
        if blocksOf c.w ≤ j then 0 else (if o.a = 0 then o.imm.toNat else (s.x o.a).toNat) % 256) ∧
    (c.w ≤ 8 → inFile o.d → inFile o.a → Completes (.emv o) s [.e] fun t => kept t ∧ ∀ k < c.g,
      e t (o.d.toNat + k) = e s (o.a.toNat + k)) ∧
    ((8 < c.w ∨ ¬ inFile o.d) → s.hart.firmware = false →
      Traps (.eset o) s .illegalInstruction 0 0 [] ∧ Traps (.emv o) s .illegalInstruction 0 0 []) ∧
    (1 ≤ o.d.toNat →
    ((o.d.toNat < 7 ∨ o.d.toNat = 7 ∧ s.hart.firmware = true) →
      (∀ p ∈ ([
        (Instr.mand o, fun e => a e && b e),
        (Instr.mor o, fun e => a e || b e),
        (Instr.mxor o, fun e => xor (a e) (b e)),
        (Instr.mnot o, fun e => !a e),
        (Instr.mset o, fun e => decide (e < o.imm.toNat))] : List (Instr × (Nat → Bool))),
        Completes p.1 s [.m] (WritesMask s.cfg 0 false o.d.toNat p.2 s)) ∧
      Completes (.mmv o) s [.m] (WritesM o.d.toNat (s.hart.getM o.a.toNat) s)) ∧
    (o.d.toNat = 7 → s.hart.firmware = false →
      ∀ i ∈ [Instr.mand o, .mor o, .mxor o, .mnot o, .mset o, .mmv o], Traps i s .illegalInstruction 0 0 []))

/-- R123, R197, R278: a vector instruction of a wrong class, or with a group that is misaligned or runs past the file or VREGS, is
illegal before anything else; one that would write a streaming register is stream misuse, after the group checks (the model's order,
notes/assumptions/27.md). A streaming register as a source at G = 1 gives
the instruction the next VL elements of its stream, as if the strip stood in the register, and POS advances past them. -/
def Obligations.VectorOperands : Prop :=
  (
    ∀ (o : GOp) (s : State), s.hart.firmware = false →
      let c := s.cfg
      let g := c.g
      let ints := [Instr.vadd o, .vsub o, .vrsub o, .vmul o, .vmulh o, .vmulhu o, .vmin o, .vmax o, .vminu o, .vmaxu o, .vand o, .vor o,
        .vxor o, .vsll o, .vsrl o, .vsra o, .vsadd o, .vssub o, .vsaddu o, .vssubu o, .vmacc o, .vdiv o, .vdivu o, .vrem o, .vremu o]
      let floats := [Instr.vfadd o, .vfsub o, .vfmul o, .vfdiv o, .vfmin o, .vfmax o, .vfsgnj o]
      let roots := [Instr.vfsqrt o, .vfabs o, .vfneg o, .vfexp2 o, .vfclass o]
      let sums := [Instr.vredsumi o, .vredand o, .vredor o, .vredxor o]
      let group (l : List Instr) (cls : Bool) (dests srcs : List Opd) : Prop := ∀ i ∈ l,
        ((cls = false ∨ ∃ x ∈ dests ++ srcs, x.ok s.hart.task.vregs = false) → Traps i s .illegalInstruction 0 0 []) ∧
        (cls = true → (∀ x ∈ dests ++ srcs, x.ok s.hart.task.vregs = true) → (∃ x ∈ dests, s.hart.streams? x = true) →
          Traps i s .streamMisuse 0 2 [])
      group ints (isInt c.fmt) [Opd.of o.d g] (Opd.of o.a g :: bOpd o g) ∧
      group floats (isFp c.fmt) [Opd.of o.d g] (Opd.of o.a g :: bOpd o g) ∧
      group roots (isFp c.fmt) [Opd.of o.d g] [Opd.of o.a g] ∧
      group sums (isInt c.fmt) [Opd.of o.d 1] [Opd.of o.a g, Opd.of o.b 1] ∧
      group [.vredsumO o] (isFp c.fmt) [Opd.of o.d 1] [Opd.of o.a g, Opd.of o.b 1] ∧
      group [.vamax o] (isFp c.fmt) [Opd.of o.d 1] [Opd.of o.a g]) ∧
  (
    ∀ (o : GOp) (s : State) (st : Stream) (values : List Nat),
      let c := s.cfg
      let r := o.a.toNat
      let total := APReg.total st.pattern
      let s' : State := { s with hart := { s.hart.setStream r none with own := s.hart.own.setReg r (packElems c.w values) } }
      s.hart.stream r = some st → c.g = 1 → 8 ≤ c.w → c.w = 8 * APReg.size st.pattern → 1 ≤ c.vl → c.vl ≤ c.vlmax → st.pos < total →
      values.length = c.vl → (∀ v ∈ values, v < 2 ^ c.w) →
      (∀ e < c.vl, if st.pos + e < total then st.buf[e]? = some (.value (values.getD e 0)) else values.getD e 0 = 0) →
      OperandsOk s' (Opd.of o.d 1 :: Opd.of o.a 1 :: bOpd o 1) → o.d ≠ o.a → (o.form = 0 → o.b ≠ o.a) →
      ∀ p ∈ [(Instr.vadd o, isInt c.fmt), (.vsub o, isInt c.fmt), (.vmul o, isInt c.fmt), (.vmax o, isInt c.fmt), (.vsadd o, isInt c.fmt),
          (.vmacc o, isInt c.fmt), (.vfadd o, isFp c.fmt), (.vfmul o, isFp c.fmt), (.vfmax o, isFp c.fmt)], p.2 = true →
        ∃ t t', exec p.1 s = .next t ∧ exec p.1 s' = .next t' ∧ Retires s t ∧ t.hart.own = t'.hart.own ∧
          t.hart.csr = t'.hart.csr ∧ t.hart.stream r = some (st.advance c.vl) ∧
          (∀ k, k ≠ r → t.hart.stream k = s.hart.stream k) ∧ Unchanged [.v, .fflags, .streams, .decoupling] s t)


/-! Strips and the registers of patterns and bands (chapters 5, 9, 15). -/

/-- R86, R89, R90, R126: a strip close grants min(requested, VLMAX), counts the closed strip and installs the type, once the watermark word
has reached the strip's end; until then the instruction has not executed, and the event of the
close runs it again. A type that R86 rejects is illegal and changes nothing. The closing strip's accesses perform at core scope, and in
the fence-strengthening mode the close waits for the hart's engine commands too (R91, R268, R269). Which tasks open the mode, and what
the acquire of the watermark orders, is the model's choice (notes/assumptions/83.md, 84.md). -/
def Obligations.StripClose : Prop :=
  ∀ (o : GOp) (s : State), ∀ p ∈ [
      (Instr.setvl o, s.x o.a, (BitVec.ofNat 64 o.imm.toNat : Word)),
      (Instr.setvli o, BitVec.ofNat 64 o.x.toNat, BitVec.ofNat 64 o.imm.toNat),
      (Instr.setvty o, s.x o.a, s.x o.b)],
    let vty := p.2.2
    let fmt := vty.toNat % 32
    let good : Prop := vty.toNat < 512 ∧ isDefined fmt = true ∧ (vty.getLsbD 7 = true → fmt = 0x0B ∨ fmt = 0x0C)
    let max := 2 ^ (vty.toNat / 32 % 4) * 2048 / container fmt
    let vl : Word := BitVec.ofNat 64 (min p.2.1.toNat max)
    let old := s.hart.csr
    let blocked : Prop := s.strengthened = true ∧ s.commandPending s.hart.place = true
    let grant (l : List Piece) (read : State) (ordered : List Nat) : Prop :=
      ∀ i, (i = p.1 ∨ i = .stripClose ∧ s.waitsAt = some p.1) →
      Completes i s ([.x, .decoupling, .strip, .lanes, .memory, .poison, .stores, .replicas] ++ l) fun t =>
      WritesX o.d vl s t ∧ t.hart.csr.vl = vl ∧ t.hart.csr.vty = vty ∧ t.hart.csr.wmbase = old.wmbase + old.vl ∧
      t.hart.csr.srbase = old.srbase + old.vl ∧ t.hart.csr.stripn = old.stripn + 1 ∧ t.hart.ordered = ordered ∧
      SameMemory t (read.release s.hart.place (if s.strengthened then 3 else 1))
    (¬ good → s.hart.firmware = false → Traps p.1 s .illegalInstruction 0 0 [.decoupling]) ∧
    (good → s.hart.task.wmaddr = none → (blocked → Waits p.1 s [.decoupling]) ∧ (¬ blocked → grant [] s s.hart.ordered)) ∧
    (good → ∀ a ea t, s.hart.task.wmaddr = some a → Accessible s s.hart.req (.plain a) 0 8 ea t →
      let mark : Word := BitVec.ofNat 64 ((s.touch s.hart.req t).readAt s.hart.req t 8)
      (old.wmbase + old.vl + vl ≤ mark → ¬ blocked →
        grant [.ordered, .tags, .tlb] (s.touch s.hart.req t) (s.seenStores s.hart.place)) ∧
      (old.wmbase + old.vl + vl ≤ mark → blocked → Waits p.1 s [.decoupling, .ordered, .memory, .poison, .stores, .tags, .tlb]) ∧
      (mark < old.wmbase + old.vl + vl → Waits p.1 s [.decoupling, .memory, .poison, .stores, .tags, .tlb]))

/-- R96, R97, R100: a deal gives each slot of the core at most its demand, hands out min(16, total demand) groups, and gives them in turn: a
slot that still wants one has at most one fewer than any other. The demand is min(16, ⌈VL × container bits ÷ 128⌉), and 0 where no task runs.
A task under DET holds all 16. -/
def Obligations.LaneDeal : Prop :=
  ∀ (s : State) (die core : Nat),
    let alloc (k : Nat) : Nat := (((s.deal die core).lanes.get {} (coreKey die core)).alloc).getD k 0
    let demand (k : Nat) : Nat := s.demandAt die core k
    let det (h : Hart) : Prop := h.place.die = die ∧ h.place.core = core ∧ h.run = .running ∧ h.det = true
    ((∀ h ∈ s.harts, ¬ det h) →
      (∀ k < 4, demand k ≤ 16 ∧ alloc k ≤ demand k) ∧
      alloc 0 + alloc 1 + alloc 2 + alloc 3 = min 16 (demand 0 + demand 1 + demand 2 + demand 3) ∧
      ∀ k < 4, alloc k < demand k → ∀ j < 4, alloc j ≤ alloc k + 1) ∧
    (∀ h ∈ s.harts, det h → h.place.slot < 4 → (∀ g ∈ s.harts, det g → g = h) →
      alloc h.place.slot = 16 ∧ ∀ k < 4, k ≠ h.place.slot → alloc k = 0) ∧
    ∀ k, ((∀ h ∈ s.harts, h.place = { die, core, slot := k } → h.run = .idle) → demand k = 0) ∧
      ∀ h ∈ s.harts, h.place = { die, core, slot := k } → (∀ g ∈ s.harts, g.place = h.place → g = h) → h.run = .running →
        demand k = min 16 ((h.csr.vl.toNat * container (h.csr.vty.toNat % 32) + 127) / 128)

/-- R174, R175, R275: the band state and pattern registers are set from scalars field by field, and move to and from memory as one access
of 32 or 64 bytes, a store as one piece (the model's choice, notes/assumptions/105.md); who sees a store at once, and the poison that goes
with it, is the model's choice too (notes/assumptions/12.md, 9.md). -/
def Obligations.BandAndPatternRegisters : Prop :=
  ∀ (o : GOp) (s : State),
    let l : List Piece := [.decoupling, .memory, .poison, .stores, .tags, .tlb]
    let a := s.x o.a
    let sel := o.imm.toNat
    let old := s.hart.getAP o.d.toNat
    let base : Base := .plain a
    (o.d.toNat < 8 → Completes (.bsset o) s [.bs] (WritesBS o.d.toNat
      (cleanBand (a.toNat + 2 ^ 64 * (s.x o.b).toNat + 2 ^ 128 * ((s.x o.c).toNat % 2 ^ 32))) s)) ∧
    (o.d.toNat < 8 → ∃ v : APReg, Completes (.apset o) s [.ap, .decoupling] (WritesAP o.d.toNat v s) ∧
      (sel = 15 → APReg.header v = a.toNat % 2 ^ 32 ∧ (∀ j < 6, APReg.count v j = APReg.count old j) ∧
        ∀ j < 6, APReg.stride v j = APReg.stride old j) ∧
      (sel < 6 → APReg.header v = APReg.header old ∧
        (∀ j < 6, APReg.count v j = if j = sel then a.toNat % 2 ^ 32 else APReg.count old j) ∧
        ∀ j < 6, APReg.stride v j = APReg.stride old j) ∧
      (8 ≤ sel → sel < 14 → APReg.header v = APReg.header old ∧ (∀ j < 6, APReg.count v j = APReg.count old j) ∧
        ∀ j < 6, APReg.stride v j = if j = sel - 8 then toSigned 48 a.toNat else APReg.stride old j)) ∧
    (∀ ea t, Accessible s s.hart.req base o.imm.toInt 32 ea t → o.d.toNat < 8 →
      Completes (.bsld o) s (.bs :: l) fun u => AfterTouch s.hart.req t s u ∧ WritesBS o.d.toNat (cleanBand
        ((s.touch s.hart.req t).readAt s.hart.req t 32)) s u) ∧
    (∀ ea t, Accessible s s.hart.req base o.imm.toInt 64 ea t → o.d.toNat < 8 →
      Completes (.apld o) s (.ap :: l) fun u => AfterTouch s.hart.req t s u ∧ WritesAP o.d.toNat (BitVec.ofNat 512
        ((s.touch s.hart.req t).readAt s.hart.req t 64)) s u) ∧
    (∀ ea t, Accessible s (s.hart.req (write := true)) base o.imm.toInt 32 ea t →
      Completes (.bsst o) s l (AfterStore (s.hart.req (write := true)) t
        (toBytes 32 (cleanBand (s.hart.getBS o.c.toNat).toNat).toNat) s)) ∧
    (∀ ea t, Accessible s (s.hart.req (write := true)) base o.imm.toInt 64 ea t →
      Completes (.apst o) s l (AfterStore (s.hart.req (write := true)) t (toBytes 64 (s.hart.getAP o.c.toNat).toNat) s)) ∧
    ∀ v k, (cleanBand v).getLsbD k = (v.testBit k && decide (k < 160 ∧ k ≠ 15 ∧ ¬(19 ≤ k ∧ k < 32)))

/-! The diagonal engine (chapters 8 and 9). -/

/-- R156, R158 to R160, R163, R177: the fate of a product. It is a structural zero when one of its three entries lies outside its matrix;
else it meets shift range when its B row lies outside the window; else it goes to the target entry of its key, or is fill-in. -/
def Obligations.ProductFates : Prop :=
  ∀ (r : Run) (k l : Nat) (i : Int),
    let red (v : Int) : Int := if r.wrapped then v % (r.w : Int) else v
    let ka := r.a.off0 + ((k * r.a.step : Nat) : Int)
    let kb (n : Nat) := r.b.off0 + ((n * r.b.step : Nat) : Int)
    let kt (n : Nat) := r.t.off0 + ((n * r.t.step : Nat) : Int)
    let row := red (i + if r.kind = .dcorr then kt l else ka)
    let inBand (b : Band) (row col : Int) : Prop := 0 ≤ row ∧ row < b.nrows ∧ 0 ≤ col ∧ col < b.ncols
    let inWindow : Prop := r.wrapped = true ∨ r.b.mode = 2 ∨
      ((r.b.row0 : Int) ≤ row ∧ row < r.b.row0 + ((r.w * (if r.b.halo then 2 else 1) : Nat) : Int))
    let entries : Prop := match r.kind with
      | .dprod => inBand r.a i (red (i + ka)) ∧ inBand r.b row (red (row + kb l)) ∧ inBand r.t i (red (i + ka + kb l))
      | .dcorr => inBand r.a i ka ∧ inBand r.b row (kb k) ∧ inBand r.t i (red (i + kt l))
      | .dapply => inBand r.a i (red (i + ka)) ∧ inBand r.b row (kb l) ∧ inBand r.t i (kb l)
    (r.fate k l i = .zero ↔ ¬ entries) ∧
    (r.fate k l i = .shift ↔ entries ∧ ¬ inWindow) ∧
    (r.kind ≠ .dprod → entries → inWindow → r.fate k l i = .valid l) ∧
    (r.kind = .dprod → entries → inWindow →
      (r.fate k l i = .fill ↔ ∀ n < r.t.count, red (kt n) ≠ red (ka + kb l)) ∧
      ∀ n < r.t.count, red (kt n) = red (ka + kb l) → (∀ m < n, red (kt m) ≠ red (ka + kb l)) → r.fate k l i = .valid n)

/-- R157, R159 to R163, R165, R167, R178, R179: a diagonal instruction whose bands pass the issue checks, with no offending product and no
window that streams, adds each valid product into its cell, in the order of R162, counts the fill-in that it drops, and charges the
toggle estimate (R169). FFLAGS takes the flags of the additions. The drops may still land on a write of DGDROP that comes next (R180, the
model's reading, notes/assumptions/82.md). An offending product stops it before any cell changes (R361), and failed checks are illegal. The
sign of a zero BFP product and the core that gives a pair's TOGEST are the model's choice (notes/assumptions/103.md, 102.md). -/
def Obligations.DiagonalInstructions : Prop :=
  ∀ (o : GOp) (s : State), ∀ p ∈ [(Instr.dprod o, Pairing.dprod), (.dcorr o, .dcorr), (.dapply o, .dapply)],
    let h := s.hart
    let d := o.d.toNat
    (h.diagonalLegal p.2 o = none → h.firmware = false → Traps p.1 s .illegalInstruction 0 0 []) ∧
    (∀ r x, h.diagonalLegal p.2 o = some r → r.offender (o.fl.getLsbD 0) = some x → h.firmware = false →
      Traps p.1 s (if x.fate = .shift then .shiftRange else .fillIn) 0
        (BitVec.ofNat 64 (p.2.fn * 2 ^ 48 + x.k * 2 ^ 40 + x.l % 256 * 2 ^ 32 + (r.a.row0 + x.j) % 2 ^ 32)) []) ∧
    ∀ r, h.diagonalLegal p.2 o = some r → r.offender (o.fl.getLsbD 0) = none → (∀ k ∈ r.ownWindows, h.stream k = none) → d < 8 →
      let farB := if p.2 = .dcorr then h.far else h.own
      let half := if r.pair then (r.a.count + 1) / 2 else r.a.count
      let sum (fa fb : VFile) (lo hi : Nat) (old : Store (BitVec 32)) (cell : Nat) : BitVec 32 × Flags :=
        (r.products.filter fun x => decide (lo ≤ x.k ∧ x.k < hi) && match x.fate with
          | .valid n => n * r.w + x.j == cell
          | _ => false).foldl (fun v x =>
            let y := r.accumulate v.1 (r.factors fa fb x).1 (r.factors fa fb x).2
            (y.1, v.2 ||| y.2)) (old.get 0 cell, 0)
      let drops := r.products.countP (·.fate == .fill)
      let c := container r.fmt
      let one := s.charge h.place.die h.place.core c (r.steps h.own h.own 0 half)
      let two := one.1.charge h.place.die (h.place.core + 1) c
        (if r.pair then r.steps h.far farB half (r.a.count / 2) else [])
      Completes p.1 s [.ac, .fflags, .dgdrop, .togest, .steps, .dies] (fun u =>
        (∃ t, u.hart.getAC d = .mapped t ∧ t.win = r.tile.win ∧ t.gang = r.tile.gang ∧
          (∀ cell, t.cells.get 0 cell = (sum h.own h.own 0 half r.tile.cells cell).1) ∧
          ∀ cell, t.farCells.get 0 cell =
            if r.pair then (sum h.far farB half r.a.count r.tile.farCells cell).1 else r.tile.farCells.get 0 cell) ∧
        (∀ k, k ≠ d → u.hart.getAC k = h.getAC k) ∧ u.hart.retiring = h.retiring ∧
        u.hart.csr.dgdrop.toNat = min 0xFFFFFFFF (h.csr.dgdrop.toNat + drops) ∧
        (∀ k < 64, u.hart.csr.fflags.getLsbD k = true ↔ h.csr.fflags.getLsbD k = true ∨
          ∃ cell, (sum h.own h.own 0 half r.tile.cells cell).2.getLsbD k = true ∨
            r.pair = true ∧ (sum h.far farB half r.a.count r.tile.farCells cell).2.getLsbD k = true) ∧
        u.hart.csr.togest = BitVec.ofNat 64 (one.2.getD 0) ∧ u.steps = two.1.steps ∧ u.dies = two.1.dies) drops

/-- R165, R166, R181, R375: AZERO and AGANG map a fresh accumulator of zero cells and retire what the names held before, whose tiles it
takes where the reserve has too few free ones; while older drains still read those tiles it waits with nothing changed
(notes/assumptions/26.md). That a forbidden name traps with SEQF 0 is the model's choice (notes/assumptions/66.md). Names beyond ACCS, a
format without accumulators, a member of a gang and a gang at a name other than 0 and 4 are illegal. -/
def Obligations.AccumulatorAllocation : Prop :=
  ∀ (o : GOp) (s : State), o.d.toNat < 8 → ∀ p ∈ [(Instr.azero o, o.d.toNat, [o.d.toNat]),
      (Instr.agang0, 0, [0, 1, 2, 3]), (Instr.agang4, 4, [4, 5, 6, 7])],
    let d := p.2.1
    let names := p.2.2
    let fmt := s.cfg.fmt
    let freed := names.foldl (fun s n => s.retireName n) s
    let short := names.length - freed.hart.freeTiles
    let alone : Prop := ∀ n ∈ names, n ≠ d → ∀ t, s.hart.getAC n = .mapped t → t.gang = false
    let bad : Prop := engineFmt fmt = false ∨ (names.length = 1 ∧ s.hart.getAC d = .member) ∨
      s.hart.task.accs < freed.hart.held + names.length
    (bad → s.hart.firmware = false → Traps p.1 s .illegalInstruction 0 0 []) ∧
    (¬ bad → s.returnable names < short → Waits p.1 s []) ∧
    (¬ bad → short ≤ s.returnable names →
      Completes p.1 s [.ac, .cmds] fun u =>
        u.hart.getAC d = .mapped { win := 2048 / container fmt, gang := decide (names.length = 4) } ∧
        (∀ n ∈ names, n ≠ d → u.hart.getAC n = .member) ∧
        (alone → ∀ k, k ∉ names → u.hart.getAC k =
          if (match s.hart.getAC d with | .mapped t => t.gang | _ => false) = true ∧ d ≤ k ∧ k ≤ d + 3 then .unmapped
          else s.hart.getAC k) ∧
        u.hart.retiring = freed.hart.retiring - short ∧
        u.cmds.length = s.cmds.length ∧ ∀ c ∈ s.cmds, c.place ≠ s.hart.place → c ∈ u.cmds) ∧
    (s.hart.firmware = false → Traps .agangBad s .illegalInstruction 0 0 [])

/-- R167, R183 to R186: ADRAIN writes the converted cells of its slots to vD, merges their largest magnitude into the word at x[B] as one
atomic if asked (with VL = 0 there is no access, notes/assumptions/65.md), and retires the accumulator if final; AREAD and AWRITE move the
raw words. -/
def Obligations.AccumulatorTransfers : Prop :=
  ∀ (o : GOp) (s : State) (t : Tile),
    let c := s.cfg
    let own := s.hart.own
    let s0 := o.imm.toNat % 1024
    let fp := isFp c.fmt
    let mode := s.hart.csr.modeOf o.fl.toNat
    let sat := o.x.getLsbD 2
    let final := o.x.getLsbD 0
    let far := o.x.getLsbD 0
    let at_ (e : Nat) := s0 * t.win + e
    let cell (e : Nat) := t.cell s.hart.pair fp (at_ e)
    let new (e : Nat) := drainConvert c.fmt c.scl (own.exponent o.d.toNat c.w e) (s.hart.csr.rnd mode e) sat (cell e).1
    let most := drainMax fp ((activeElems s c.vl o.msk).map fun e => (cell e).1)
    let q := s.hart.req (write := true) (atomic := true)
    let accs (u : State) : Prop := u.hart.retiring = (if final then s.retireName o.a.toNat else s).hart.retiring ∧
      ∀ k, u.hart.getAC k = (if final then s.retireName o.a.toNat else s).hart.getAC k
    let raw : Prop := isWord32 c.fmt = true ∧ (far = true → s.hart.leader = true) ∧ at_ c.vl ≤ t.size
    let side (v : Tile) (f : Bool) := if f then v.farCells else v.cells
    ((isInt c.fmt || fp) = true → OperandsOk s [Opd.of o.d c.g] → s.hart.getAC o.a.toNat = .mapped t → at_ c.vl ≤ t.size →
      (o.x.getLsbD 1 = false ∨ c.vl = 0 →
        Completes (.adrain o) s ([.v, .fflags, .ac, .cmds] ++ if o.x.getLsbD 1 then [.decoupling] else []) fun u =>
        WritesGroup c c.w c.g o.msk.toNat (o.mz == 1) o.d.toNat (fun e => (new e).1) s u ∧
        FlagsOf ((activeElems s c.vlmax o.msk).map fun e => (cell e).2 ||| (new e).2) s u ∧ accs u) ∧
      (∀ va mt, o.x.getLsbD 1 = true → c.vl ≠ 0 →
        s.precheck q (.plain (s.x o.b)) 4 [{ idx := 0, off := 0 }] = .ok [{ idx := 0, va, loc := .at_ mt }] →
        s.claimed q.place mt 4 true = false → (s.atSlice q mt 4).poisonIn q.place mt.pa mt.pa 4 = false →
        let v := (s.atSlice q mt 4).atSlice q mt 4
        let old := v.memNat mt.pa 4
        let m := (fp32.value old).minmax true (fp32.value most.1)
        Completes (.adrain o) s [.v, .fflags, .ac, .cmds, .decoupling, .acted, .memory, .poison, .stores, .tags, .tlb, .replicas]
          fun u =>
          WritesGroup c c.w c.g o.msk.toNat (o.mz == 1) o.d.toNat (fun e => (new e).1) s u ∧
          FlagsOf (most.2 :: m.2 :: (activeElems s c.vlmax o.msk).map fun e => (cell e).2 ||| (new e).2) s u ∧ accs u ∧
          (∀ r a, (a < mt.pa ∨ mt.pa + 4 ≤ a) → u.byteAt r a = v.byteAt r a) ∧
          ∀ k < 4, v.loses (mt.pa + k) = false →
            u.mem.get 0 (mt.pa + k) = BitVec.ofNat 8 ((fp32.round { mode := .rne } false m.1).1 / 2 ^ (8 * k)))) ∧
    (raw → OperandsOk s [Opd.of o.d c.g] → s.hart.getAC o.a.toNat = .mapped t →
      Completes (.aread o) s [.v] (WritesGroup c 32 c.g o.msk.toNat (o.mz == 1) o.d.toNat
        (fun e => ((side t far).get 0 (at_ e)).toNat) s)) ∧
    (raw → OperandsOk s [Opd.of o.a c.g] → s.hart.getAC o.d.toNat = .mapped t → o.d.toNat < 8 →
      Completes (.awrite o) s [.ac] fun u =>
        (∃ v, u.hart.getAC o.d.toNat = .mapped v ∧ v.win = t.win ∧ v.gang = t.gang ∧ side v (!far) = side t (!far) ∧
          (∀ e ∈ activeElems s c.vl o.msk, (side v far).get 0 (at_ e) = BitVec.ofNat 32 (s.bitsOf c o.a e)) ∧
          ∀ k, (∀ e ∈ activeElems s c.vl o.msk, k ≠ at_ e) → (side v far).get 0 k = (side t far).get 0 k) ∧
        (∀ k, k ≠ o.d.toNat → u.hart.getAC k = s.hart.getAC k) ∧ u.hart.retiring = s.hart.retiring)

/-! Vector accesses to memory (chapters 5, 7, 13, 21). -/

/-- R92, R93, R145 to R148, R151: a vector load whose elements pass the pre-checks and are present reads them in ascending order; an element
that completed before an interruption keeps its value (R368). R240: a probe reads the elements that are present, zeroes the others and reports
in the mask register that C names. That a FAR load may overlap its index group, and what an acquire orders, is the model's choice
(notes/assumptions/71.md, 84.md). -/
def Obligations.VectorLoads : Prop :=
  ∀ (o : MOp) (s : State),
    let c := s.cfg
    let far := o.aux.getLsbD 7
    let iw := 8 * 2 ^ o.ixw.toNat
    let ig := max 1 (c.g * iw / c.w)
    let d := Opd.of o.d c.g
    let b := s.baseOf o.h o.a
    let q : Req := { s.hart.req (covered := b.covered) with walks := o.nf == 1 }
    let n := max 1 (c.w / 8)
    let index (e : Nat) := elemAt iw (s.hart.own.group o.b.toNat ig) e
    let dest : Prop := d.ok s.hart.task.vregs = true ∧ s.hart.streams? d = false ∧ (far = true → s.hart.leader = true)
    isDefined c.fmt = true → dest →
    ∀ p ∈ ([
      (Instr.vld o, True, fun e => ((e * c.w / 8 : Nat) : Int)),
      (Instr.vlds o, 8 ≤ c.w, fun e => (e : Int) * (s.x o.b).toInt),
      (Instr.vldx o, 8 ≤ c.w ∧ c.g * iw / c.w ≤ 8 ∧ OperandsOk s [Opd.of o.b ig] ∧ (far = true ∨ d.disjoint (Opd.of o.b ig) = true),
        fun e => ((index e * 2 ^ (o.aux.toNat % 4) : Nat) : Int))] : List (Instr × Prop × (Nat → Int))),
      p.2.1 → ∀ placed,
        s.precheck q b n (((List.range c.vl).filter (s.hart.pending o.msk.toNat)).map fun e =>
          { idx := e, off := o.ofs.toInt + p.2.2 e }) = .ok placed →
        let loaded (l : List (Nat × Nat)) (e old : Nat) : Nat :=
          match l.lookup e with
          | some v => v / 2 ^ (if c.w < 8 then e * c.w % 8 else 0)
          | none => old
        let absent (x : Placed) : Bool := match x.loc with | .absent _ => true | .at_ _ => false
        let r := State.readAll q n (o.ro == 1) s placed
        (o.nf = 0 → Present s q n placed → CleanReads q n (o.ro == 1) s placed →
          Completes p.1 s ((if far then .far else .v) :: loadPieces) fun u => SameMemory u r.1 ∧
            u.hart.ordered = s.orderedIf o.ord o.scope ∧
            WritesFile far c c.g o.msk.toNat (o.mz == 1) o.d.toNat
              (fun e => loaded r.2 e (elemAt c.w ((s.hart.file far).group o.d.toNat c.g) e)) s u) ∧
        (o.nf = 1 → s.hart.csr.elx = 0 → 1 ≤ o.c.toNat → o.c.toNat ≤ 6 → Present s q n (placed.filter (!absent ·)) →
          CleanReads q n (o.ro == 1) s placed →
          Completes p.1 s ((if far then .far else .v) :: .m :: loadPieces) fun u => SameMemory u r.1 ∧
            u.hart.ordered = s.orderedIf o.ord o.scope ∧
            WritesFile far c c.g o.msk.toNat (o.mz == 1) o.d.toNat (fun e => loaded r.2 e 0) s u ∧
            (∀ e < 8192, (u.hart.getM o.c.toNat).getLsbD e =
              if e < c.vl then s.hart.selected o.msk.toNat e && (r.2.lookup e).isSome
              else !c.tailz && (s.hart.getM o.c.toNat).getLsbD e) ∧
            ∀ k, k ≠ o.c.toNat → (k ≠ 7 ∨ s.hart.firmware = true) → u.hart.getM k = s.hart.getM k)

/-- R94, R147, R148, R151, R364, R368: a vector load that meets missing pages performs the elements that are present, under DET only those
before the first missing one, records them in m7 and ELX, and takes a page fault at the lowest missing page; masked-off elements and the
tail are as before. EINFO and the records count pages of 64 KiB (the model's choice, notes/assumptions/17.md). -/
def Obligations.VectorLoadPartWay : Prop :=
  ∀ (o : MOp) (s : State), o.nf = 0 → s.hart.firmware = false → s.hart.place.die < 4 →
    let c := s.cfg
    let far := o.aux.getLsbD 7
    let iw := 8 * 2 ^ o.ixw.toNat
    let ig := max 1 (c.g * iw / c.w)
    let d := Opd.of o.d c.g
    let b := s.baseOf o.h o.a
    let q := s.hart.req (covered := b.covered)
    let n := max 1 (c.w / 8)
    let index (e : Nat) := elemAt iw (s.hart.own.group o.b.toNat ig) e
    let absent (p : Placed) : Bool := match p.loc with | .absent _ => true | .at_ _ => false
    isDefined c.fmt = true → c.vl ≤ 8192 → d.ok s.hart.task.vregs = true → s.hart.streams? d = false →
    (far = true → s.hart.leader = true) →
    ∀ p ∈ ([
      (Instr.vld o, True, fun e => ((e * c.w / 8 : Nat) : Int)),
      (Instr.vlds o, 8 ≤ c.w, fun e => (e : Int) * (s.x o.b).toInt),
      (Instr.vldx o, 8 ≤ c.w ∧ c.g * iw / c.w ≤ 8 ∧ OperandsOk s [Opd.of o.b ig] ∧ (far = true ∨ d.disjoint (Opd.of o.b ig) = true),
        fun e => ((index e * 2 ^ (o.aux.toNat % 4) : Nat) : Int))] : List (Instr × Prop × (Nat → Int))),
      p.2.1 → ∀ placed,
        s.precheck q b n (((List.range c.vl).filter (s.hart.pending o.msk.toNat)).map fun e =>
          { idx := e, off := o.ofs.toInt + p.2.2 e }) = .ok placed →
        let here := placed.filter (!absent ·)
        let done := if s.hart.det then placed.takeWhile (!absent ·) else here
        let gone := placed.filter absent
        let pages := missingPages (gone.filterMap fun p => match p.loc with
          | .absent bad => some { va := p.va, bad : Missing }
          | .at_ _ => none)
        let r := State.readAll q n (o.ro == 1) s done
        Present s q n here → CleanReads q n (o.ro == 1) s done → gone ≠ [] → (s.die s.hart.place.die).writer = none →
        (s.die s.hart.place.die).faults.length + pages.length ≤ faultCapacity →
        ∃ u, exec p.1 s = .next u ∧
          Enters s u .pageFault s.hart.pc (pages.head?.elim 0 (·.1))
            (BitVec.ofNat 64 ((s.die s.hart.place.die).faultSeq.toNat * 2 ^ 32 + pages.length % 2 ^ 16)) false ∧
          u.hart.csr.elx.toNat = done.foldl (fun m p => max m (p.idx + 1)) s.hart.csr.elx.toNat ∧
          (∀ e < 8192, (u.hart.getM 7).getLsbD e = ((s.hart.getM 7).getLsbD e || done.any fun p => p.idx == e)) ∧
          (u.die s.hart.place.die).faults.length = (s.die s.hart.place.die).faults.length + pages.length ∧
          (∀ q a, u.byteAt q a = r.1.byteAt q a) ∧ (∀ q d, u.poisonFrom q d d = r.1.poisonFrom q d d) ∧ u.tags = r.1.tags ∧
          (∀ x ∈ u.tlb, x ∈ r.1.tlb) ∧
          (∀ e < c.vlmax, elemAt c.w ((u.hart.file far).group o.d.toNat c.g) e = match r.2.lookup e with
            | some v => v / 2 ^ (if c.w < 8 then e * c.w % 8 else 0) % 2 ^ c.w
            | none => elemAt c.w ((s.hart.file far).group o.d.toNat c.g) e) ∧
          (∀ k, (k < o.d.toNat ∨ o.d.toNat + c.g ≤ k) → (u.hart.file far).reg k = (s.hart.file far).reg k) ∧
          Unchanged [if far then .far else .v, .decoupling, .memory, .poison, .stores, .tags, .tlb, .readOnly, .dies, .parked, .fwEvent,
            .privilege, .csrs] s u

/-- R145 to R149, R151: a vector store whose elements pass the pre-checks and are present writes them in ascending order, each at its own
address, and the sub-byte ones of one byte together, in their bits alone; it releases older accesses before them and its own elements after, if ORD asks for it. No
other byte changes but what the accesses themselves leave. -/
def Obligations.VectorStores : Prop :=
  ∀ (o : MOp) (s : State),
    let c := s.cfg
    let far := o.aux.getLsbD 7
    let iw := 8 * 2 ^ o.ixw.toNat
    let ig := max 1 (c.g * iw / c.w)
    let d := Opd.of o.c c.g
    let b := s.baseOf o.h o.a
    let q := s.hart.req (write := true) (covered := b.covered) (view := b.handle)
    let n := max 1 (c.w / 8)
    let data (e : Nat) := elemAt c.w ((s.hart.file far).group o.c.toNat c.g) e
    let index (e : Nat) := elemAt iw (s.hart.own.group o.b.toNat ig) e
    let active (e : Nat) : Prop := e < c.vl ∧ s.hart.pending o.msk.toNat e = true
    let source : Prop := d.ok s.hart.task.vregs = true ∧ s.hart.streams? d = false ∧ (far = true → s.hart.leader = true)
    isDefined c.fmt = true → source →
    ∀ p ∈ ([
      (Instr.vst o, True, fun e => ((e * c.w / 8 : Nat) : Int)),
      (Instr.vsts o, 8 ≤ c.w, fun e => (e : Int) * (s.x o.b).toInt),
      (Instr.vstx o, 8 ≤ c.w ∧ c.g * iw / c.w ≤ 8 ∧ OperandsOk s [Opd.of o.b ig],
        fun e => ((index e * 2 ^ (o.aux.toNat % 4) : Nat) : Int))] : List (Instr × Prop × (Nat → Int))),
      p.2.1 → ∀ placed,
        s.precheck q b n (((List.range c.vl).filter (s.hart.pending o.msk.toNat)).map fun e =>
          { idx := e, off := o.ofs.toInt + p.2.2 e }) = .ok placed →
        Present s q n placed →
        Completes p.1 s storePieces fun u =>
          SameMemory u (s.storeAll q o.ord o.scope (c.stored active data) placed) ∧
          (o.ord.getLsbD 1 = false → ∀ r a,
            (∀ x ∈ placed, ∀ t, x.loc = .at_ t → a < t.pa ∨ t.pa + n ≤ a) →
            u.byteAt r a = (s.touchAll q placed).byteAt r a)

/-- R88, R94, R145, R150: ELD, EST, MLD and MST move the scale bytes of a group or the bits of a mask register as bytes in order; the rest of
a loaded scale register is zero, and the rest of a loaded mask is tail. That byte j of a transfer is its element j, so that ELD at VL = 0
zeroes its group, and what an acquire orders, is the model's choice (notes/assumptions/19.md, 84.md). -/
def Obligations.ScaleAndMaskTransfers : Prop :=
  ∀ (o : MOp) (s : State),
    let c := s.cfg
    let b := s.baseOf o.h o.a
    let q := s.hart.req (covered := b.covered)
    let qw := s.hart.req (write := true) (covered := b.covered) (view := b.handle)
    let perReg := 2048 / c.w / 32
    let scales := (c.vl + 31) / 32
    let bytes := (c.vl + 7) / 8
    let elems (n : Nat) : List Elem := ((List.range n).filter fun j => !s.hart.progressed j).map fun j =>
      { idx := j, off := o.ofs.toInt + j }
    let inFile (r : Reg) : Prop := r.toNat % c.g = 0 ∧ r.toNat + c.g ≤ 64
    let scale (u : State) (r k : Nat) := bitsAt (u.hart.own.scaleReg r) (8 * k) 8
    (∀ placed, isDefined c.fmt = true → c.w ≤ 8 → inFile o.d →
      s.precheck q b 1 (elems scales) = .ok placed → Present s q 1 placed → CleanReads q 1 false s placed →
      let r := State.readAll q 1 false s placed
      Completes (.eld o) s (.e :: loadPieces) fun u => SameMemory u r.1 ∧ u.hart.ordered = s.orderedIf o.ord o.scope ∧
        (∀ k < c.g, ∀ j < 32, scale u (o.d.toNat + k) j =
          if perReg ≤ j ∨ scales ≤ k * perReg + j then 0
          else (r.2.lookup (k * perReg + j)).getD (scale s (o.d.toNat + k) j)) ∧
        ∀ k, (k < o.d.toNat ∨ o.d.toNat + max c.g ((scales + perReg - 1) / perReg) ≤ k) → u.hart.own.scaleReg k = s.hart.own.scaleReg k) ∧
    (∀ placed, isDefined c.fmt = true → c.w ≤ 8 → inFile o.c →
      s.precheck qw b 1 (elems scales) = .ok placed → Present s qw 1 placed →
      Completes (.est o) s storePieces fun u => SameMemory u
        (s.storeAll qw o.ord o.scope (fun j => some (toBytes 1 (scale s (o.c.toNat + j / perReg) (j % perReg)), 0xFF)) placed)) ∧
    (∀ placed, 1 ≤ o.d.toNat → (o.d.toNat < 7 ∨ o.d.toNat = 7 ∧ s.hart.firmware = true) →
      s.precheck q b 1 (elems bytes) = .ok placed → Present s q 1 placed → CleanReads q 1 false s placed →
      let r := State.readAll q 1 false s placed
      Completes (.mld o) s (.m :: loadPieces) fun u => SameMemory u r.1 ∧ u.hart.ordered = s.orderedIf o.ord o.scope ∧
        WritesMask c 0 false o.d.toNat (fun e => match r.2.lookup (e / 8) with
          | some v => v.testBit (e % 8)
          | none => (s.hart.getM o.d.toNat).getLsbD e) s u) ∧
    ∀ placed, s.precheck qw b 1 (elems bytes) = .ok placed → Present s qw 1 placed →
      Completes (.mst o) s storePieces fun u => SameMemory u
        (s.storeAll qw o.ord o.scope
          (fun j => some (toBytes 1 (bitsAt ((s.hart.getM o.c.toNat).toNat % 2 ^ c.vl) (8 * j) 8), 0xFF)) placed)

/-- R243, R244, R240: VGATHB reads each element from the block that its table entry names. An entry at or above the bound is index bound at
the lowest such element, or with NF, as a missing page is, an element of zero whose bit of the mask is cleared. What an acquire orders is
the model's choice (notes/assumptions/84.md). -/
def Obligations.BlockGathers : Prop :=
  ∀ (o : MOp) (s : State),
    let c := s.cfg
    let iw := 8 * 2 ^ o.ixw.toNat
    let block := 2 ^ (o.aux.toNat % 16)
    let b := s.baseOf o.h o.a
    let q : Req := { s.hart.req (covered := b.covered) with walks := o.nf == 1 }
    let n := max 1 (c.w / 8)
    let at_ (e : Nat) := e * c.w / 8
    let entry (e : Nat) := elemAt iw (s.hart.own.reg o.b.toNat) (at_ e / block)
    let off (e : Nat) : Int := o.ofs.toInt + ((entry e * 2 ^ (o.aux.toNat / 16 + 6) + at_ e % block : Nat) : Int)
    let bound := (s.x o.c).toNat % 2 ^ 32
    let active := (List.range c.vl).filter (s.hart.pending o.msk.toNat)
    let inside := active.filter fun e => decide (entry e < bound)
    let legal : Prop := isDefined c.fmt = true ∧ 8 ≤ c.w ∧ ceilDiv (c.vl * c.w / 8) block ≤ 2048 / iw ∧
      (Opd.of o.d c.g).disjoint (Opd.of o.b 1) = true ∧ OperandsOk s [Opd.of o.d c.g, Opd.of o.b 1]
    let elems := inside.map fun e => { idx := e, off := off e : Elem }
    (legal → o.nf = 0 → s.hart.firmware = false → ∀ e ∈ active, bound ≤ entry e → (∀ k ∈ active, k < e → entry k < bound) →
      Traps (.vgathb o) s .indexBound (s.addrAt q.asid b (off e)) (BitVec.ofNat 64 (at_ e / block)) [.decoupling]) ∧
    (∀ placed, legal → o.nf = 0 → inside = active → s.precheck q b n elems = .ok placed → Present s q n placed →
      CleanReads q n (o.ro == 1) s placed →
      let r := State.readAll q n (o.ro == 1) s placed
      Completes (.vgathb o) s (.v :: loadPieces) fun u => SameMemory u r.1 ∧ u.hart.ordered = s.orderedIf o.ord o.scope ∧
        WritesGroup c c.w c.g o.msk.toNat (o.mz == 1) o.d.toNat
          (fun e => (r.2.lookup e).getD (s.bitsOf c o.d e)) s u) ∧
    ∀ placed, legal → o.nf = 1 → s.hart.csr.elx = 0 → 1 ≤ o.msk.toNat → s.precheck q b n elems = .ok placed →
      let absent (p : Placed) : Bool := match p.loc with | .absent _ => true | .at_ _ => false
      Present s q n (placed.filter (!absent ·)) → CleanReads q n (o.ro == 1) s placed →
      let r := State.readAll q n (o.ro == 1) s placed
      Completes (.vgathb o) s (.v :: .m :: loadPieces) fun u => SameMemory u r.1 ∧ u.hart.ordered = s.orderedIf o.ord o.scope ∧
        WritesGroup c c.w c.g o.msk.toNat (o.mz == 1) o.d.toNat (fun e => (r.2.lookup e).getD 0) s u ∧
        (o.msk.toNat ≠ 7 ∨ s.hart.firmware = true →
          ∀ e < 8192, (u.hart.getM o.msk.toNat).getLsbD e =
            if e < c.vl then s.hart.selected o.msk.toNat e && (r.2.lookup e).isSome
            else !c.tailz && (s.hart.getM o.msk.toNat).getLsbD e) ∧
        ∀ k, k ≠ o.msk.toNat → (k ≠ 7 ∨ s.hart.firmware = true) → u.hart.getM k = s.hart.getM k

/-- R100, R252, R253: VAMO performs one atomic for each active element in ascending order, after its release, and writes the old values; VFAS
performs one at its single place and hands each active element the old value plus the counts before it, and makes no access where no element
is active. Where poison stops a VAMO is
said in notes/assumptions/22.md, and what follows an acquire in notes/assumptions/84.md. -/
def Obligations.VectorAtomics : Prop :=
  ∀ (o : MOp) (s : State),
    let c := s.cfg
    let w := c.w
    let n := max 1 (w / 8)
    let b := s.baseOf o.h o.a
    let q := s.hart.req (write := true) (atomic := true) (covered := b.covered)
    let op := (Amo.ofCode (o.aux.toNat % 32)).getD .swap
    let iw := 8 * 2 ^ o.ixw.toNat
    let ig := max 1 (c.g * iw / c.w)
    let d := Opd.of o.d c.g
    let data := Opd.of o.c c.g
    let index (e : Nat) := elemAt iw (s.hart.own.group o.b.toNat ig) e
    let off (e : Nat) : Int := o.ofs.toInt + ((index e * 2 ^ (o.aux.toNat / 32 % 4) : Nat) : Int)
    let pending := (List.range c.vl).filter (s.hart.pending o.msk.toNat)
    let active := (List.range c.vl).filter (s.hart.selected o.msk.toNat)
    let v := s.releasedIf o.ord o.scope
    let legal : Prop := (if op.isFp then c.fmt = 0x0A else 4 ≤ c.fmt ∧ c.fmt ≤ 7) ∧ c.g * iw / c.w ≤ 8 ∧
      d.disjoint (Opd.of o.b ig) = true ∧ d.disjoint data = true ∧ OperandsOk s [d, Opd.of o.b ig, data]
    let l : List Piece := [.v, .fflags, .ordered] ++ storePieces
    let before (e : Nat) : Nat := ((active.filter (· < e)).map (s.bitsOf c o.c)).sum
    (legal → op = .fadd → s.hart.det = true → s.hart.firmware = false →
      Traps (.vamo o) s .determinismViolation ((pending.head?.map fun e => s.addrAt q.asid b (off e)).getD 0) 0xA100 [.decoupling]) ∧
    (∀ checked placed, legal → (op = .fadd → s.hart.det = false) →
      s.precheck q b n (pending.map fun e => { idx := e, off := off e }) = .ok checked →
      v.precheck q b n (pending.map fun e => { idx := e, off := off e }) = .ok placed → Present v q n placed →
      let f (e old : Nat) : Option Nat × Flags := 
        if op = .addb then op.apply w old (s.bitsOf c o.c e) (s.bitsOf c o.d e)
        else op.apply w old (s.bitsOf c o.d e) (s.bitsOf c o.c e)
      CleanAtomics q n f v placed →
      let r := State.atomicAll q n f (v.settleTargets q n (targetsOf placed)) placed
      Completes (.vamo o) s l fun u => SameMemory u r.1 ∧ u.hart.ordered = r.1.orderedIf o.ord o.scope ∧
        WritesGroup c w c.g o.msk.toNat (o.mz == 1) o.d.toNat (fun e => (r.2.1.lookup e).getD (s.bitsOf c o.d e)) s u ∧
        FlagsOf r.2.2 s u) ∧
    (4 ≤ c.fmt → c.fmt ≤ 7 → OperandsOk s [d, data] →
      (active = [] → Completes (.vfas o) s [.v, .decoupling]
        (WritesGroup c w c.g o.msk.toNat (o.mz == 1) o.d.toNat (fun _ => 0) s)) ∧
      ∀ va t, active ≠ [] →
        s.precheck q b n [{ idx := 0, off := o.ofs.toInt }] = .ok [{ idx := 0, va, loc := .at_ t }] →
        s.claimed q.place t n true = false → (s.atSlice q t n).poisonIn q.place t.pa t.pa n = false →
        let r := ((s.atSlice q t n).releasedIf o.ord o.scope).atomicAt q t n fun old =>
          (some ((old + (active.map (s.bitsOf c o.c)).sum) % 2 ^ w), 0)
        Completes (.vfas o) s l fun u => SameMemory u r.1 ∧ u.hart.ordered = r.1.orderedIf o.ord o.scope ∧
          WritesGroup c w c.g o.msk.toNat (o.mz == 1) o.d.toNat (fun e => r.2.1 + before e) s u)

/-- R292, R305 to R310, R404: VLDR rotates the pairs of elements that it loads; COPYSEG and the retired VSEGLD take records apart, one field
to a register. COPYSEG checks the elements that are read and no other record (notes/assumptions/108.md); what follows an acquire is the
model's choice (notes/assumptions/84.md). -/
def Obligations.RotaryAndRecordLoads : Prop :=
  (∀ (o : MOp) (s : State),
    let c := s.cfg
    let n := max 1 (c.w / 8)
    let ro := o.ro == 1
    let b := s.baseOf o.h o.a
    let q := s.hart.req (covered := b.covered)
    let s1 := s.afterReads (o.b :: o.c :: if o.h = 1 then [] else [o.a])
    let table : Base := .plain (s.x o.b)
    let pending := (List.range c.vl).filter (s.hart.pending o.msk.toNat)
    (c.fmt = 0x08 ∨ c.fmt = 0x09 ∨ c.fmt = 0x0A) → OperandsOk s [Opd.of o.d c.g] →
    ∀ header s2 freqs s3 placed,
      loadAt table 0 64 ro s1 = .ok header s2 →
      let d := rotaryOf header
      d.ok header = true → c.vl % d.rd = 0 →
      ((List.range d.npair).mapM fun j => loadAt table ((0x40 + 4 * j : Nat) : Int) 4 ro) s2 = .ok freqs s3 →
      (∀ e < c.vl, ∀ e1 e2 j, d.pairOf e = some (e1, e2, j) → s.hart.pending o.msk.toNat e1 = s.hart.pending o.msk.toNat e2) →
      s3.precheck q b n (pending.map fun e => { idx := e, off := o.ofs.toInt + ((e * c.w / 8 : Nat) : Int) }) = .ok placed →
      let units := (unitsOf d placed).map (·.elems)
      Present s3 q n placed → CleanGroups q n ro s3 units →
      let r := State.readGroups q n ro s3 units
      let val (e : Nat) : Val := (fpOf c.fmt).value ((r.2.lookup e).getD 0)
      let rotated (e1 e2 j : Nat) : Nat × Nat × Flags :=
        let a := whiskAngle (s.x o.c + BitVec.ofNat 64 (e1 / d.rd)) (freqs.getD j 0)
        rotate c.fmt (val e1) (val e2) a.1 a.2
      Completes (.vldr o) s (.v :: .fflags :: loadPieces) fun u => SameMemory u r.1 ∧ u.hart.ordered = s.orderedIf o.ord o.scope ∧
        WritesGroup c c.w c.g o.msk.toNat (o.mz == 1) o.d.toNat (fun e =>
          if (r.2.lookup e).isNone then s.bitsOf c o.d e
          else match d.pairOf e with
            | none => (r.2.lookup e).getD 0
            | some (e1, e2, j) => if e = e1 then (rotated e1 e2 j).1 else (rotated e1 e2 j).2.1) s u ∧
        FlagsOf (pending.map fun e => match d.pairOf e with
          | none => 0
          | some (e1, e2, j) => (rotated e1 e2 j).2.2) s u) ∧
  ∀ (i : Instr) (s : State) (b : Base) (fields dest records : Nat) (record : Nat → Nat) (at_ : Nat → Int) (msk : Nat) (mz : Bool)
      (reads : List Reg) (retired : Bool),
    let c := s.cfg
    let n := max 1 (c.w / 8)
    let elems : List Elem := (List.range fields).flatMap fun f => (List.range c.vl).filterMap fun e =>
      if s.hart.selected msk e && decide (record e < records) then
        some { idx := f * c.vl + e, off := at_ (record e) + ((f * n : Nat) : Int) }
      else none
    ((∃ o : EOp, i = .copyseg o ∧ msk = 0 ∧ mz = false ∧ retired = false ∧ fields = o.cmod.toNat / 64 + 1 ∧ dest = o.c.toNat ∧
        reads = (if o.fl.getLsbD 0 then [] else [o.b]) ∧
        b = (if o.fl.getLsbD 0 then .view o.b.toNat (s.hart.getH o.b.toNat) else .plain (s.x o.b)) ∧
        APReg.wellFormed (s.hart.getAP o.a.toNat) = true ∧ APReg.indexed (s.hart.getAP o.a.toNat) = false ∧
        records = APReg.total (s.hart.getAP o.a.toNat) ∧ (at_ = fun k => APReg.offset (s.hart.getAP o.a.toNat) k 0) ∧
        if o.cmod.getLsbD 5 then
          let v := o.imm.toNat % 64
          c.vl ≤ 128 ∧ v < min 64 s.hart.task.vregs ∧ ¬(dest ≤ v ∧ v < dest + fields) ∧ s.hart.stream v = none ∧
          record = fun e => elemAt 16 (s.hart.own.reg v) e
        else record = id) ∨
      ∃ o : MOp, i = .vsegld o ∧ msk = o.msk.toNat ∧ mz = (o.mz == 1) ∧ retired = true ∧ fields = o.aux.toNat % 8 + 1 ∧ 2 ≤ fields ∧
        dest = o.d.toNat ∧ reads = [o.a] ∧ b = .plain (s.x o.a) ∧ records = c.vl ∧ record = id ∧
        at_ = fun k => o.ofs.toInt + ((k * fields * n : Nat) : Int)) →
    isDefined c.fmt = true → 8 ≤ c.w → c.g = 1 → dest + fields ≤ min 64 s.hart.task.vregs →
    (∀ f < fields, s.hart.stream (dest + f) = none) →
    ∀ placed, (s.afterReads reads).precheck (s.hart.req (covered := b.covered)) b n elems = .ok placed →
      Present s (s.hart.req (covered := b.covered)) n placed →
      CleanGroups (s.hart.req (covered := b.covered)) n false s [placed] →
      let r := State.readGroups (s.hart.req (covered := b.covered)) n false s [placed]
      Completes i s [.v, .retuse, .x, .promise, .choices, .decoupling, .memory, .poison, .stores, .tags, .tlb] fun u => SameMemory u r.1 ∧
        (∀ f < fields, ∀ e < c.vlmax, elemAt c.w (u.hart.own.reg (dest + f)) e =
          if e < c.vl then
            if s.hart.selected msk e then ((r.2.lookup (f * c.vl + e)).getD 0) % 2 ^ c.w
            else if mz then 0 else elemAt c.w (s.hart.own.reg (dest + f)) e
          else if c.tailz then 0 else elemAt c.w (s.hart.own.reg (dest + f)) e) ∧
        OthersKept dest fields s u ∧
        (retired = false → u.hart.csr.retuse = s.hart.csr.retuse ∧ ∃ o : EOp, i = .copyseg o ∧ WritesX o.d u.hart.promise s u) ∧
        (retired = true → (∀ k, u.x k = s.x k) ∧ u.hart.promise = s.hart.promise ∧
          u.hart.csr.retuse.toNat = s.hart.csr.retuse.toNat - s.hart.csr.retuse.toNat % 2 ^ 16 +
            min 65535 (s.hart.csr.retuse.toNat % 2 ^ 16 + 1))

/-! Rings and commands (chapters 15 and 16). -/

/-- R286, R294, R295, R297, R301: RINIT writes an empty header and empty state words; RPEEK reads a state word; RAWAIT answers the buffer of a
full slot, raises a late failure that the slot carries, traps on a missed promise, and otherwise waits, and two events
run a RAWAIT that waits again; RREL empties full slots and moves
RPTR. A header that fails its checks is ring misuse. A restored late failure is known by its error, number and cause
(notes/assumptions/45.md). -/
def Obligations.RingInstructions : Prop :=
  ∀ (o : GOp) (s : State),
    let ring := s.x o.a
    let q := s.hart.req
    let qw := s.hart.req (write := true)
    let mem : List Piece := [.decoupling, .memory, .poison, .stores, .tags, .tlb, .replicas]
    let geometry := (s.x o.c).toNat
    let slots := geometry / 2 ^ 32 % 2 ^ 16
    let ssize := geometry % 2 ^ 32
    let stateAt (r : Ring) (n : Nat) : Word := ring + BitVec.ofNat 64 (0x40 + 8 * ((r.rptr + BitVec.ofNat 32 n).toNat % r.slots))
    let k := o.imm.toNat % 4096
    let n := o.imm.toNat % 8192
    (∀ t (ts : List Target), RingPage s qw ring 64 t false → (s.x o.b).toNat % 128 = 0 → geometry < 2 ^ 48 →
      1 ≤ slots → slots ≤ 4096 → Nat.land slots (slots - 1) = 0 → ssize % 128 = 0 → 128 ≤ ssize → ssize ≤ 16777088 →
      ts.length = slots →
      RingPages qw 8 false (s.touch qw t) (ts.zipIdx.map fun p => (ring + BitVec.ofNat 64 (0x40 + 8 * p.2), p.1)) →
      Completes (.rinit o) s mem fun u => SameMemory u
        (ts.foldl (fun v t => v.writeTarget qw t (toBytes 8 0))
          ((State.touchTargets qw (s.touch qw t) ts).writeTarget qw t (toBytes 64 ((s.x o.b).toNat + 2 ^ 64 * ssize + 2 ^ 96 * slots))))) ∧
    (∀ t t', RingPage s q ring 64 t → RingPage (s.touch q t) q ring 64 t' →
      let u := ((s.touch q t).touch q t').atSlice q t 64
      (ringOf (u.memNat t.pa 64)).ok (u.memNat t.pa 64) = false → s.hart.firmware = false →
      Traps (.rpeek o) s .ringMisuse ring 2 mem ∧ Traps (.rawait o) s .ringMisuse ring 2 mem) ∧
    (∀ r t u t', HeaderAt s q ring r t u → k < r.slots → RingPage u q (stateAt r k) 8 t' →
      let v := (u.touch q t').atSlice q t' 8
      let word := v.memNat t'.pa 8
      let carried (l : Late) : Bool := l.seq.toNat == word % 2 ^ 32 &&
        if l.restored then word.testBit 62 && word / 2 ^ 56 % 64 == l.cause.code else l.slot == some (stateAt r k)
      Completes (.rpeek o) s (.x :: mem) (fun w => WritesX o.d (BitVec.ofNat 64 word) s w ∧ SameMemory w v) ∧
      (word.testBit 63 = true → s.hart.lates.find? carried = none →
        ∀ i, (i = .rawait o ∨ i = .rawaitWake ∧ s.waitsAt = some (.rawait o)) → Completes i s (.x :: mem) fun w =>
        WritesX o.d (r.base + BitVec.ofNat 64 ((r.rptr + BitVec.ofNat 32 k).toNat % r.slots * r.ssize)) s w ∧ SameMemory w v) ∧
      (∀ l, word.testBit 63 = true → s.hart.lates.find? carried = some l → s.hart.firmware = false →
        Traps (.rawait o) s l.cause l.address (BitVec.ofNat 64 l.seq.toNat) (.lates :: mem) ∧
        ∃ w, exec (.rawait o) s = .next w ∧ w.hart.lates = s.hart.lates.erase l) ∧
      (word.testBit 63 = false → o.fl.getLsbD 0 = true → s.x o.b < s.cycle → s.hart.firmware = false →
        ∀ i, (i = .rawait o ∨ i = .missedPromise ∧ s.waitsAt = some (.rawait o)) →
          Traps i s .missedPromise (stateAt r k) (s.x o.b) mem) ∧
      (word.testBit 63 = false → (o.fl.getLsbD 0 = true → s.cycle ≤ s.x o.b) → Waits (.rawait o) s mem)) ∧
    ∀ r t u (places : List (Target × Target)), HeaderAt s qw ring r t u → n ≤ r.slots → places.length = n →
      RingReads qw 8 u (places.zipIdx.map fun p => (stateAt r p.2, p.1)) →
      let ts := places.map (·.1)
      let read := State.sliceAll qw 8 (State.touchReads qw u places) ts
      (∀ x ∈ read.2, x.testBit 63 = true) →
      Completes (.rrel o) s (.acted :: mem) fun w => w.hart.acted = true ∧ SameMemory w
        ((ts.foldl (fun v t => v.sliceSet qw t 8 0) (read.1.release s.hart.place 4)).sliceSet qw t 64
          { r with rptr := r.rptr + BitVec.ofNat 32 n }.bits)

/-- R264, R284 to R293, R296: a copy, a converting copy or a load of a weight store whose patterns and elements pass the checks of dispatch
is queued with its sides as they stand, claims its slot, takes the weight stores that it writes, and gives its promise in x[D], the hart's
older stores having performed for its die. Nothing is moved yet. An indexed WSLOAD takes the store of its base here
(notes/assumptions/76.md). -/
def Obligations.CommandDispatch : Prop :=
  ∀ (o : EOp) (s : State),
    let q := s.hart.req
    let src := s.srcSide o
    let total := APReg.total (s.hart.getAP o.a.toNat)
    let conv := o.cmod.toNat / 128 % 4
    ∀ p ∈ ([
      (Instr.copy o, true, src.size, false, fun dst => .copy total src dst),
      (Instr.copycv o, src.size == (if conv < 2 then 2 else 1), if conv < 2 then 1 else 2, false,
        fun dst => .copyCv total conv (o.cmod.toNat / 32 % 4) (o.cmod.getLsbD 4) src dst s.hart.csr.srseed s.hart.csr.srbase),
      (Instr.wsload o, src.size == 8, 8, true, fun dst => .wsload total src dst)] :
        List (Instr × Bool × Nat × Bool × (Side → CmdKind))),
      let dsize := p.2.2.1
      let store := p.2.2.2.1
      let plain := s.dstSide o dsize
      let slotted := usesBuffer o && !store
      let s1 := s.afterReads (commandReads o)
      ∀ from_ into c u, patternFault o src plain p.2.1 dsize = none →
        s.checkAffine q src o.b.toNat total false false = .ok from_ →
        Claims s1 (if o.rv = 1 then some (s.x o.rs) else none) (if slotted then some (total * plain.size) else none) c u →
        let dst : Side := match c with
          | some c => if slotted then { plain with base := c.2.1.base + BitVec.ofNat 64 (c.1.toNat % c.2.1.slots * c.2.1.ssize) } else plain
          | none => plain
        let fills (die : Nat) : Prop := store = true ∧
          ∃ va off, va ∈ (if dst.indexed then [dst.base] else into.map (·.1)) ∧ regionOf s.hart.place.die va = .weights die off
        s.checkAffine q dst o.c.toNat total true store = .ok into → egress from_ into = none →
        (∀ die, fills die → (s.die die).storeOwner = none ∨ (s.die die).storeOwner = some q.asid) →
        let v := (u.claimedSlot c).release s.hart.place 3
        Completes p.1 s [.x, .decoupling, .cmds, .promise, .choices, .dies, .memory, .poison, .stores, .tags, .tlb, .replicas] fun w =>
          w.cmds = s.cmds ++ [{
            place := s.hart.place, asid := q.asid, kind := p.2.2.2.2 dst, after := o.fl.getLsbD 3
            claims := claimOf src false from_ ++ claimOf dst true into
            ring := c.map fun c => (s.x o.rs, c.1)
            epc := s.hart.pc, taskid := s.hart.csr.taskid, nodeid := s.hart.csr.nodeid
            promise := w.hart.promise, ordered := v.seenStores s.hart.place }] ∧
          SameMemory w v ∧
          Promises s from_ into (src.indexed || dst.indexed) (total * plain.size) w.hart.promise ∧
          WritesX o.d w.hart.promise s w ∧
          ∀ die < 4, (fills die → (w.die die).storeOwner = some q.asid) ∧
            (¬ fills die → (w.die die).storeOwner = (s.die die).storeOwner)

/-- R221, R285, R291 to R293, R298, R299, R392, R394: the checks of dispatch of COPY, COPYCV, WSLOAD, MKOUT, COPYSEG and ADRAINM in their
order, and their causes. The source comes before the destination (notes/assumptions/70.md, 58.md); the claim of a slot comes last, but where
the destination is the slot's buffer (notes/assumptions/36.md). ADRAINM's shape comes before its format (notes/assumptions/104.md). -/
def Obligations.CommandChecks : Prop :=
  (∀ (o : EOp) (s : State), s.hart.firmware = false →
    let q := s.hart.req
    let qw := s.hart.req (write := true) (atomic := true)
    let src := s.srcSide o
    let total := APReg.total (s.hart.getAP o.a.toNat)
    let narrow := o.cmod.toNat / 128 % 4 < 2
    let ringPieces : List Piece := [.decoupling, .memory, .poison, .stores, .tags, .tlb, .replicas]
    ∀ p ∈ ([(Instr.copy o, true, src.size, false),
        (Instr.copycv o, src.size == (if narrow then 2 else 1), if narrow then 1 else 2, false),
        (Instr.wsload o, src.size == 8, 8, true)] : List (Instr × Bool × Nat × Bool)),
      let i := p.1
      let dsize := p.2.2.1
      let store := p.2.2.2
      let dst := s.dstSide o dsize
      let slotted := usesBuffer o && !store
      (∀ k, patternFault o src dst p.2.1 dsize = some k → Traps i s .illegalInstruction 0 (BitVec.ofNat 64 k) [.decoupling]) ∧
      (patternFault o src dst p.2.1 dsize = none →
        (∀ t : Trap, s.checkAffine q src o.b.toNat total false false = .error t → Traps i s t.cause t.addr t.info [.decoupling]) ∧
        ∀ from_, s.checkAffine q src o.b.toNat total false false = .ok from_ →
          (slotted = false →
            (∀ t : Trap, s.checkAffine q dst o.c.toNat total true store = .error t → Traps i s t.cause t.addr t.info [.decoupling]) ∧
            ∀ into, s.checkAffine q dst o.c.toNat total true store = .ok into →
              (∀ va l l' x y, (va, l) ∈ from_ → l = .at_ (.page x) → Entry.cls x.entry = 3 →
                (∀ b m, (b, m) ∈ from_ → (∃ z, m = .at_ (.page z) ∧ Entry.cls z.entry = 3) → b = va) →
                l' ∈ into → l'.2 = .at_ y → (∀ z, y = .page z → Entry.cls z.entry ≠ 3) →
                Traps i s .protectedEgress va 0 [.decoupling]) ∧
              (egress from_ into = none →
                (∀ die off a, store = true → dst.indexed = true → regionOf s.hart.place.die dst.base = .weights die off →
                  (s.die die).storeOwner = some a → a ≠ q.asid → Traps i s .protection dst.base 0 [.decoupling]) ∧
                ((store = true → ∀ va ∈ (if dst.indexed then [dst.base] else into.map (·.1)), ∀ die off,
                    regionOf s.hart.place.die va = .weights die off →
                    (s.die die).storeOwner = none ∨ (s.die die).storeOwner = some q.asid) →
                  ∀ r t u, o.rv = 1 → HeaderAt s qw (s.x o.rs) r t u → (r.cptr - r.rptr).toNat = r.slots →
                    Traps i s .ringMisuse (s.x o.rs) 4 ringPieces))) ∧
          (slotted = true → ∀ r t u, HeaderAt s qw (s.x o.rs) r t u →
            let buffer := { dst with base := r.base + BitVec.ofNat 64 (r.cptr.toNat % r.slots * r.ssize) }
            (r.ssize < total * dst.size → Traps i s .ringMisuse (s.x o.rs) 5 ringPieces) ∧
            (total * dst.size ≤ r.ssize → (r.cptr - r.rptr).toNat = r.slots → Traps i s .ringMisuse (s.x o.rs) 4 ringPieces) ∧
            (total * dst.size ≤ r.ssize → (r.cptr - r.rptr).toNat ≠ r.slots →
              ∀ t : Trap, s.checkAffine q buffer o.c.toNat total true false = .error t →
                Traps i s t.cause t.addr t.info ringPieces)))) ∧
  (∀ (o : EOp) (s : State), s.hart.firmware = false →
    let p := s.hart.getAP o.a.toNat
    let pixels := APReg.count p 0 * APReg.count p 1
    let total := (pixels + 127) / 128 * 128 + 4096
    let src : Side := { pattern := some p, size := 1, base := s.x o.b, view := none }
    let dst : Side := { pattern := none, size := 1, base := s.x o.c, view := none }
    (¬ MarkImage p → Traps (.mkout o) s .illegalInstruction 0 1 [.decoupling]) ∧
    (MarkImage p →
      (∀ t : Trap, s.checkAffine s.hart.req src 0 pixels false false = .error t → Traps (.mkout o) s t.cause t.addr t.info [.decoupling]) ∧
      ∀ from_, s.checkAffine s.hart.req src 0 pixels false false = .ok from_ → (o.rv = 0 ∨ o.c ≠ 0) →
        ((s.x o.c).toNat % 128 ≠ 0 → Traps (.mkout o) s .misalignedAccess (s.x o.c) 0 [.decoupling]) ∧
        ((s.x o.c).toNat % 128 = 0 →
          (∀ t : Trap, s.checkAffine s.hart.req dst 0 total true false = .error t → Traps (.mkout o) s t.cause t.addr t.info [.decoupling]) ∧
          ∀ into, s.checkAffine s.hart.req dst 0 total true false = .ok into →
            0xFFFFFFFF < (s.marks.get {} s.hart.req.asid.toNat).counter → Traps (.mkout o) s .protection (s.x o.c) 0 [.decoupling]))) ∧
  (∀ (o : EOp) (s : State), s.hart.firmware = false →
    let c := s.cfg
    let fields := o.cmod.toNat / 64 + 1
    let dest := o.c.toNat
    let perm := o.cmod.getLsbD 5
    let v := o.imm.toNat % 64
    let vregs := min 64 s.hart.task.vregs
    let p := s.hart.getAP o.a.toNat
    let b : Base := if o.fl.getLsbD 0 then .view o.b.toNat (s.hart.getH o.b.toNat) else .plain (s.x o.b)
    let record (e : Nat) : Nat := if perm then elemAt 16 (s.hart.own.reg v) e else e
    let legal : Prop := isDefined c.fmt = true ∧ 8 ≤ c.w ∧ c.g = 1 ∧ dest + fields ≤ vregs ∧
      (perm = true → c.vl ≤ 128 ∧ v < vregs ∧ ¬(dest ≤ v ∧ v < dest + fields)) ∧ ∀ f < fields, s.hart.stream (dest + f) = none
    let elems : List Elem := (List.range fields).flatMap fun f => (List.range c.vl).filterMap fun e =>
      if decide (record e < APReg.total p) then
        some { idx := f * c.vl + e, off := APReg.offset p (record e) 0 + ((f * max 1 (c.w / 8) : Nat) : Int) }
      else none
    (¬ legal → Traps (.copyseg o) s .illegalInstruction 0 0 [.decoupling]) ∧
    (legal → (perm = true → s.hart.stream v = none) →
      (¬ (APReg.wellFormed p = true ∧ APReg.indexed p = false) → Traps (.copyseg o) s .illegalInstruction 0 1 [.decoupling]) ∧
      (APReg.wellFormed p = true → APReg.indexed p = false → ∀ t : Trap,
        s.precheck (s.hart.req (covered := b.covered)) b (max 1 (c.w / 8)) elems = .error t →
        Traps (.copyseg o) s t.cause t.addr t.info [.decoupling] (whole := true)))) ∧
  ∀ (o : GOp) (s : State), s.hart.firmware = false →
    let c := s.cfg
    let add := o.x.getLsbD 3
    let ring := if o.x.getLsbD 4 then some (BitVec.ofNat 6 (o.x.toNat / 32) : Reg) else none
    let maxReg := if o.x.getLsbD 1 then some (BitVec.ofNat 6 (o.imm.toNat / 2 ^ 20) : Reg) else none
    let s1 := s.afterReads ([o.b, o.c] ++ ring.toList ++ maxReg.toList)
    let s0 := o.imm.toNat % 1024
    let ns := o.imm.toNat / 1024 % 1024 + 1
    let loaded : List Piece := [.decoupling, .memory, .poison, .stores, .tags, .tlb]
    ((∀ t, s.hart.getAC o.a.toNat ≠ .mapped t) → Traps (.adrainm o) s .illegalInstruction 0 0 [.decoupling]) ∧
    ∀ t, s.hart.getAC o.a.toNat = .mapped t →
      (t.slots < s0 + ns → Traps (.adrainm o) s .illegalInstruction 0 0 [.decoupling]) ∧
      (s0 + ns ≤ t.slots → ∀ v s2, loadAt (.plain (s.x o.c)) 0 64 false s1 = .ok v s2 →
        let shape : APReg := BitVec.ofNat 512 v
        (¬ (1 ≤ shapeRank shape ∧ shapeRank shape ≤ 4 ∧ bitsAt shape.toNat 3 61 = 0) → Traps (.adrainm o) s .illegalInstruction 0 1 loaded) ∧
        (1 ≤ shapeRank shape → shapeRank shape ≤ 4 → bitsAt shape.toNat 3 61 = 0 →
          (¬ ((isInt c.fmt || isFp c.fmt) = true ∧ (add = true → isWord32 c.fmt = true)) →
            Traps (.adrainm o) s .illegalInstruction 0 0 loaded) ∧
          ((isInt c.fmt || isFp c.fmt) = true → (add = true → isWord32 c.fmt = true ∧ (c.fmt = 0x0A → s.hart.det = false)) →
            let job : DrainJob := {
              tile := t, name := o.a.toNat, fmt := c.fmt, s0, ns
              mode := (if o.fl = 0 then s.hart.csr.frm.toNat else o.fl.toNat) % 8
              seed := s.hart.csr.srseed, srbase := s.hart.csr.srbase, sat := o.x.getLsbD 2, add, maxAt := maxReg.map s.x
              base := s.x o.b, shape, paired := s.hart.pair }
            ∀ e : Trap, s2.checkSide { s.hart.req with write := true, atomic := add } (.plain job.base) job.size (job.cells.map (·.2.2))
                false false = .error e →
              Traps (.adrainm o) s e.cause e.addr e.info loaded)))

/-- R298 to R300, R392 to R394: ADRAINM queues a drain of its slots as the tile and the shape stand, and retires the accumulator if final;
an adding drain of FP32 traps under DET (R100). MKOUT queues a marked copy of an image and takes the next number of the context's frame
counter. -/
def Obligations.DrainsAndMarkedOutput : Prop :=
  (∀ (o : GOp) (s : State) (t : Tile),
    let c := s.cfg
    let q := s.hart.req
    let ring := if o.x.getLsbD 4 then some (BitVec.ofNat 6 (o.x.toNat / 32) : Reg) else none
    let maxReg := if o.x.getLsbD 1 then some (BitVec.ofNat 6 (o.imm.toNat / 2 ^ 20) : Reg) else none
    let s1 := s.afterReads ([o.b, o.c] ++ ring.toList ++ maxReg.toList)
    let s0 := o.imm.toNat % 1024
    let ns := o.imm.toNat / 1024 % 1024 + 1
    let add := o.x.getLsbD 3
    let final := o.x.getLsbD 0
    s.hart.getAC o.a.toNat = .mapped t → s0 + ns ≤ t.slots → (isInt c.fmt || isFp c.fmt) = true →
      (add = true → isWord32 c.fmt = true) →
    ∀ v s2, loadAt (.plain (s.x o.c)) 0 64 false s1 = .ok v s2 →
      let shape : APReg := BitVec.ofNat 512 v
      1 ≤ shapeRank shape → shapeRank shape ≤ 4 → bitsAt shape.toNat 3 61 = 0 →
      (add = true → c.fmt = 0x0A → s.hart.det = true → s.hart.firmware = false →
        Traps (.adrainm o) s .determinismViolation (s.x o.b) 0x8203 [.decoupling, .memory, .poison, .stores, .tags, .tlb]) ∧
      ((add = true → c.fmt = 0x0A → s.hart.det = false) →
        let job : DrainJob := {
          tile := t, name := o.a.toNat, fmt := c.fmt, s0, ns
          mode := (if o.fl = 0 then s.hart.csr.frm.toNat else o.fl.toNat) % 8
          seed := s.hart.csr.srseed, srbase := s.hart.csr.srbase, sat := o.x.getLsbD 2, add, maxAt := maxReg.map s.x
          base := s.x o.b, shape, paired := s.hart.pair }
        let qa := s.hart.req (write := true) (atomic := true)
        ∀ into word s3 cl u, s2.checkSide { q with write := true, atomic := add } (.plain job.base) job.size (job.cells.map (·.2.2)) false false
            = .ok into →
          (match job.maxAt with
            | none => s3 = s2 ∧ word = []
            | some a => ∃ va mt, word = [(a, .at_ mt)] ∧ s2.precheck qa (.plain a) 4 [{ idx := 0, off := 0 }] = .ok [{ idx := 0, va, loc := .at_ mt }] ∧
                s2.claimed qa.place mt 4 true = false ∧ s3 = s2.atSlice qa mt 4 ∧ s3.poisonIn qa.place mt.pa mt.pa 4 = false) →
          Claims s3 (ring.map s.x) none cl u →
          let x := (u.claimedSlot cl).release s.hart.place 3
          Completes (.adrainm o) s ([.x, .cmds, .promise, .choices, .ac, .decoupling, .memory, .poison, .stores, .tags, .tlb, .replicas])
            fun w =>
            let cmds := s.cmds ++ [{
              place := s.hart.place, asid := q.asid, kind := .adrainm job
              claims := claimOf { pattern := none, size := job.size, base := 0, view := none } true into ++
                claimOf { pattern := none, size := 4, base := 0, view := none } true word
              ring := cl.map fun c => (((ring.map s.x).getD 0), c.1)
              epc := s.hart.pc, taskid := s.hart.csr.taskid, nodeid := s.hart.csr.nodeid
              promise := w.hart.promise, ordered := x.seenStores s.hart.place }]
            (if final then HoldsDrains s.hart.place o.a.toNat cmds w.cmds else w.cmds = cmds) ∧
            SameMemory w x ∧
            Promises s into [] false (job.cells.length * job.size) w.hart.promise ∧
            WritesX o.d w.hart.promise s w ∧
            (∀ k, w.hart.getAC k = (if final then s.hart.retire o.a.toNat else s.hart).getAC k) ∧
            w.hart.retiring = (if final then s.hart.retire o.a.toNat else s.hart).retiring)) ∧
  ∀ (o : EOp) (s : State),
    let q := s.hart.req
    let p := s.hart.getAP o.a.toNat
    let w := APReg.count p 0
    let h := APReg.count p 1
    let total := (w * h + 127) / 128 * 128 + 4096
    let src : Side := { pattern := some p, size := 1, base := s.x o.b, view := none }
    let s1 := s.afterReads ([o.b, o.c] ++ if o.rv = 1 then [o.rs] else [])
    let slotted : Bool := o.rv == 1 && o.c == 0
    let mark := s.marks.get {} q.asid.toNat
    ∀ from_ into c u, MarkImage p → s.checkAffine q src 0 (w * h) false false = .ok from_ →
      Claims s1 (if o.rv = 1 then some (s.x o.rs) else none) (if slotted then some total else none) c u →
      let base : Word := match c with
        | some c => if o.c = 0 then c.2.1.base + BitVec.ofNat 64 (c.1.toNat % c.2.1.slots * c.2.1.ssize) else s.x o.c
        | none => s.x o.c
      let dst : Side := { pattern := none, size := 1, base, view := none }
      base.toNat % 128 = 0 → s.checkAffine q dst 0 total true false = .ok into → mark.counter ≤ 0xFFFFFFFF →
      let x := (u.claimedSlot c).release s.hart.place 3
      Completes (.mkout o) s [.x, .cmds, .promise, .choices, .device, .decoupling, .memory, .poison, .stores, .tags, .tlb, .replicas]
        fun v =>
        v.cmds = s.cmds ++ [{
          place := s.hart.place, asid := q.asid
          kind := .mkout src dst w h (o.cmod.toNat / 128) mark.identifier (BitVec.ofNat 32 mark.counter)
          after := o.fl.getLsbD 3, claims := claimOf src false from_ ++ claimOf dst true into, ring := c.map fun c => (s.x o.rs, c.1)
          epc := s.hart.pc, taskid := s.hart.csr.taskid, nodeid := s.hart.csr.nodeid
          promise := v.hart.promise, ordered := x.seenStores s.hart.place }] ∧
        v.marks.get {} q.asid.toNat = { mark with counter := mark.counter + 1 } ∧
        (∀ a, a ≠ q.asid.toNat → v.marks.get {} a = s.marks.get {} a) ∧ v.registers = s.registers ∧ v.hostData = s.hostData ∧
        SameMemory v x ∧ WritesX o.d v.hart.promise s v ∧
        Promises s from_ into false total v.hart.promise

/-! Grids, bins, regions and streams (chapters 15, 18 to 20). -/

/-- R341 to R356: with a descriptor and levels that pass their checks, and table words that are present, HGLOAD interpolates each active
point, HGGRAD adds each contribution to its gradient word in order but for a poisoned word, or appends it to a bin set after a release, and
HGCELL writes the entries and weights of corners. A corner that no active point computes gives no flag (notes/assumptions/67.md), and
contributions are not merged (notes/assumptions/42.md). -/
def Obligations.HashedGrids : Prop :=
  ∀ (o : GOp) (s : State) (g : Grid) (levels : List Level) (s1 s2 : State),
    let c := s.cfg
    let q := s.hart.req
    let l0 := o.imm.toNat % 16
    let n := o.imm.toNat / 16 % 16 + 1
    let msk := o.msk.toNat
    let active := (List.range c.vl).filter (s.hart.pending msk)
    let coords (e : Nat) := s.coords c o.a g.dims e
    let corners (e : Nat) := cornersOf g levels (coords e)
    let srcs := groupsFrom o.a c.g g.dims
    let holds (u : State) (r : Nat) (new : Nat → Nat) : Prop := ∀ e < c.vlmax, elemAt 32 (u.hart.own.group r c.g) e =
      if e < c.vl then if s.hart.selected msk e then new e % 2 ^ 32 else if o.mz = 1 then 0 else elemAt 32 (s.hart.own.group r c.g) e
      else if c.tailz then 0 else elemAt 32 (s.hart.own.group r c.g) e
    let kept (u : State) (l : List Opd) : Prop :=
      ∀ k, (∀ x ∈ l, k < x.r ∨ x.r + x.g ≤ k) → u.hart.own.reg k = s.hart.own.reg k
    let read : List Piece := [.decoupling, .memory, .poison, .stores, .tags, .tlb]
    let noStreams (l : List Opd) : Prop := ∀ x ∈ l, s.hart.streams? x = false
    (∀ touched : Nat → List Touched,
      gridHeader o.b false (fun g => decide (l0 + n ≤ g.levels)) (fun g => groupsFrom o.d c.g (n * g.features))
        (fun g => groupsFrom o.a c.g g.dims) s = .ok g s1 →
      gridLevels g l0 n s1 = .ok levels s2 → noStreams srcs →
      (∀ e ∈ active, ((corners e).mapM fun k => s2.locateGrid q (l0 + k.j) (g.tbase + BitVec.ofNat 64 (k.entry * g.entryBytes))) =
        .ok (touched e)) →
      (∀ e ∈ active, ∀ t ∈ touched e, ∃ x, t.loc = .at_ x) →
      let count := n * 2 ^ g.dims
      let points := active.map fun e => (touched e).zipIdx.map fun p => ({ idx := e * count + p.2, va := p.1.va, loc := p.1.loc } : Placed)
      CleanGroups q g.entryBytes false s2 points →
      let r := State.readGroups q g.entryBytes false s2 points
      let data (e k : Nat) : Nat := (r.2.lookup (e * count + k)).getD 0
      let result (e j : Nat) : List (Nat × Flags) := interpolate g
        (((corners e).zipIdx.filter fun p => p.1.j == j).map fun p => (p.1, data e p.2))
      Completes (.hgload o) s (.v :: .fflags :: read) fun u => SameMemory u r.1 ∧
        (∀ j < n, ∀ f < g.features, holds u (o.d.toNat + (j * g.features + f) * c.g) fun e =>
          if e ∈ active then ((result e j).getD f (0, 0)).1
          else elemAt 32 (s.hart.own.group (o.d.toNat + (j * g.features + f) * c.g) c.g) e) ∧
        kept u (groupsFrom o.d c.g (n * g.features)) ∧
        FlagsOf (active.flatMap fun e => (corners e).map (·.flags) ++
          (List.range n).flatMap fun j => (result e j).map (·.2)) s u) ∧
    (∀ touched : Nat → List Touched, o.fl.getLsbD 0 = false →
      gridHeader o.b true (fun g => decide (l0 + n ≤ g.levels)) (fun _ => [])
        (fun g => groupsFrom o.a c.g g.dims ++ groupsFrom o.c c.g (n * g.features)) s = .ok g s1 →
      gridLevels g l0 n s1 = .ok levels s2 → noStreams (srcs ++ groupsFrom o.c c.g (n * g.features)) →
      let qa := s.hart.req (write := true) (atomic := true)
      let list (e : Nat) := contributions g (corners e) fun k => elemAt 32 (s.hart.own.group (o.c.toNat + k * c.g) c.g) e
      (∀ e ∈ active, (((corners e).flatMap fun k => (List.range g.features).map fun f => (k, f)).mapM fun p =>
        s2.locateGrid qa (l0 + p.1.j) (g.gradAddr p.1.entry p.2)) = .ok (touched e)) →
      (s.hart.det = true → s.hart.firmware = false →
        Traps (.hggrad o) s .determinismViolation
          ((active.head?.bind fun e => (list e).head?.map fun p => g.gbase + BitVec.ofNat 64 (4 * p.wordIndex)).getD g.gbase) 0xC101 read) ∧
      (s.hart.det = false → (∀ e ∈ active, ∀ t ∈ touched e, ∃ x, t.loc = .at_ x) →
        let count := n * 2 ^ g.dims * g.features
        let r := State.addPoints qa 4
          (fun k old => Amo.apply .fadd 32 old 0 (((list (k / count))[k % count]?).elim 0 (·.value))) s2
          (active.map fun e => (touched e).zipIdx.map fun p => { idx := e * count + p.2, va := p.1.va, loc := p.1.loc })
        Completes (.hggrad o) s (.fflags :: storePieces) fun u => SameMemory u r.1 ∧
          FlagsOf (r.2 ++ active.flatMap fun e => (list e).map (·.flags)) s u)) ∧
    (∀ t b, o.fl.getLsbD 0 = true →
      let s0 := s.afterReads [o.d]
      gridHeader o.b true (fun g => decide (l0 + n ≤ g.levels)) (fun _ => [])
        (fun g => groupsFrom o.a c.g g.dims ++ groupsFrom o.c c.g (n * g.features)) s0 = .ok g s1 →
      gridLevels g l0 n s1 = .ok levels s2 → noStreams (srcs ++ groupsFrom o.c c.g (n * g.features)) →
      RingPage s2 q (s.x o.d) 64 t → s2.set? t.pa = some b → b.hasTile s.hart = true → b.int32 = false → b.tbase = g.gbase →
      (∀ l ∈ levels, (l.base + 2 ^ l.log2) * g.features ≤ b.tlen) →
      let all := ((List.range c.vl).filter (s.hart.selected msk)).flatMap fun e =>
        contributions g (corners e) fun k => elemAt 32 (s.hart.own.group (o.c.toNat + k * c.g) c.g) e
      let tile := s.hart.csr.taskid.toNat
      let bin := b.bin tile
      let items := if b.failure.isSome then [] else
        (all.zipIdx.map fun p => (p.2, p.1.wordIndex, BitVec.ofNat 32 p.1.value)).drop bin.part
      (items = [] ∨ (bin.space = true ∨ b.mayTake tile = true) ∧ bin.entries.length + items.length ≤ b.cap) →
      let s3 := (s2.touch q t).release s.hart.place 3
      let v := if items = [] then s3.putSet ((s3.joinSet b).append tile [])
        else s3.holdAppend ((s3.joinSet b).append tile items) tile bin.entries.length
      Completes (.hggrad o) s (.fflags :: .sets :: .replicas :: read) fun u => SameMemory u v ∧ u.sets = v.sets ∧
        FlagsOf (all.map (·.flags)) s u) ∧
    (let cb := o.imm.toNat / 16 % 256
      let nc := o.imm.toNat / 4096 % 16 + 1
      ∀ l, gridHeader o.b false (fun g => decide (l0 < g.levels) && decide (cb + nc ≤ 2 ^ g.dims))
        (fun _ => groupsFrom o.d c.g nc ++ groupsFrom o.c c.g nc) (fun g => groupsFrom o.a c.g g.dims) s = .ok g s1 →
      gridLevels g l0 1 s1 = .ok [l] s2 → noStreams srcs →
      let corner (e m : Nat) : Corner := (cornersAt l 0 (coords e) cb nc).getD m { j := 0, entry := 0, weight := .zero, flags := 0 }
      Completes (.hgcell o) s (.v :: .fflags :: read) fun u => SameMemory u s2 ∧
        (∀ m < nc, (holds u (o.d.toNat + m * c.g) fun e => (corner e m).entry) ∧
          holds u (o.c.toNat + m * c.g) fun e => (fp32.round { mode := .rne } false (corner e m).weight).1) ∧
        kept u (groupsFrom o.d c.g nc ++ groupsFrom o.c c.g nc) ∧
        FlagsOf ((activeElems s c.vlmax o.msk).flatMap fun e => (List.range nc).map fun m => (corner e m).flags) s u)

/-- R264, R314 to R321: BINIT makes a set active; BAPP releases the hart's earlier stores and appends its active elements to its tile's
sub-bin while there is room, waits for a space, applies what a full sub-bin at the horizon holds, and traps on an index beyond the target;
BREPLAY and BFLUSH are queued. A descriptor that is not active is illegal, with EINFO 2. A set that has failed counts an append and drops its
entries (notes/assumptions/32.md); the set's die is BINIT's (notes/assumptions/40.md); the pool's bytes stay (notes/assumptions/38.md); an
append that has gone in part goes on where it waits (notes/assumptions/33.md). -/
def Obligations.BinSets : Prop :=
  ∀ (o : EOp) (s : State),
    let c := s.cfg
    let a := s.x o.c
    let q := s.hart.req
    let qw := s.hart.req (write := true)
    let tile := s.hart.csr.taskid.toNat
    let items := ((List.range c.vl).filter (s.hart.selected (o.cmod.toNat % 8))).map fun e =>
      (e, elemAt 32 (s.hart.own.group o.a.toNat c.g) e, BitVec.ofNat 32 (elemAt 32 (s.hart.own.group o.b.toNat c.g) e))
    let read : List Piece := [.decoupling, .memory, .poison, .stores, .tags, .tlb]
    let mem : List Piece := .replicas :: read
    (∀ t t0, RingPage s { qw with write := false } a 64 t0 → RingPage (s.touch { qw with write := false } t0) qw a 64 t →
      let u := ((s.touch { qw with write := false } t0).touch qw t).atSlice qw t 64
      let v := u.memNat t.pa 64
      let b := setOf qw.asid qw.place.die a t.pa (s.hart.task.ref.map (·.graph)) v
      descriptorOk v b = true → v.testBit 287 = false → u.set? t.pa = none →
      (∀ x ∈ pagesOf b.tbase (4 * b.tlen), u.pageForbidden qw true x = false) →
      (∀ x ∈ pagesOf b.pool (8 * b.nsub * b.cap), u.pageForbidden qw false x = false) →
      Completes (.binit o) s (.sets :: .acted :: mem) fun w => w.sets = b :: s.sets ∧ w.memNat (t.pa + 0x20) 8 = 2 ^ 31 ∧
        ∀ r x, (x < t.pa + 0x20 ∨ t.pa + 0x28 ≤ x) →
          w.byteAt r x = ((u.release q.place 4).settleAll (t.pa + 0x20) 8).byteAt r x) ∧
    (∀ t, RingPage s q a 64 t → s.set? t.pa = none → s.hart.firmware = false →
      ∀ i ∈ [Instr.bapp o, .breplay o, .bflush o], Traps i s .illegalInstruction 0 2 read) ∧
    (∀ t b, RingPage s q a 64 t → s.set? t.pa = some b →
      (if b.int32 then c.fmt = 4 ∨ c.fmt = 5 else c.fmt = 0x0A) → OperandsOk s [Opd.of o.a c.g, Opd.of o.b c.g] →
      b.hasTile s.hart = true →
      let bin := b.bin tile
      let v := (s.touch q t).release s.hart.place 3
      let joined := v.joinSet b
      let room : Prop := bin.space = true ∨ (if tile = b.horizon ∨ (b.bin b.horizon).space = true ∨ (b.bin b.horizon).sealed = true
        then 1 ≤ b.free else 2 ≤ b.free)
      (∀ e ix v, (e, ix, v) ∈ items → b.tlen ≤ ix → (∀ e' ix' v', (e', ix', v') ∈ items → e' < e → ix' < b.tlen) →
        s.hart.firmware = false → Traps (.bapp o) s .indexBound (b.tbase + BitVec.ofNat 64 (4 * ix)) (BitVec.ofNat 64 e) read) ∧
      let left := items.drop bin.part
      ((∀ x ∈ items, x.2.1 < b.tlen) → left ≠ [] → b.failure = none →
        (¬ room ∨ (b.cap < bin.entries.length + left.length ∧ (tile ≠ b.horizon ∨ b.blocked ≠ none))) → Waits (.bapp o) s mem) ∧
      (
        let r := v.applyBin joined tile
        (∀ x ∈ items, x.2.1 < b.tlen) → left ≠ [] → b.failure = none → room → b.cap < bin.entries.length + left.length →
        tile = b.horizon → b.blocked = none →
        (r.2.failure = none → (r.2.bin tile).entries ≠ [] →
          Waits (.bapp o) s ([.sets, .acted, .fwEvent, .parked, .dies] ++ mem) ∧
          ∃ w, exec (.bapp o) s = .next w ∧ w.hart.acted = true ∧ w.sets = (r.1.putSet r.2).sets ∧ SameMemory w (r.1.putSet r.2)) ∧
        (r.2.failure.isSome = true ∨ ((r.2.bin tile).entries = [] ∧ left.length ≤ b.cap) →
          Completes (.bapp o) s (.sets :: .acted :: mem) fun w =>
            let held := r.1.putSet r.2
            let last := if r.2.failure.isSome then held.putSet (r.2.append tile []) else held.holdAppend (r.2.append tile left) tile 0
            SameMemory w last ∧ w.sets = last.sets ∧ w.hart.acted = true)) ∧
      (
        let taken := if b.failure.isSome then [] else left
        (∀ x ∈ items, x.2.1 < b.tlen) → (taken = [] ∨ (room ∧ bin.entries.length + taken.length ≤ b.cap)) →
        Completes (.bapp o) s (.sets :: mem) fun w =>
          w.sets = s.sets.map (fun d => if d.pa = b.pa then joined.setBin { bin with
            count := bin.count + 1
            space := bin.space || !taken.isEmpty
            place := if bin.space then bin.place else b.freePlace
            part := 0
            entries := bin.entries ++ taken.zipIdx.map fun x =>
              { count := bin.count, elem := x.1.1, index := x.1.2.1, value := x.1.2.2, at_ := bin.taken + x.2 } } else d) ∧
          SameMemory w (if taken = [] then v.putSet (joined.append tile [])
            else v.holdAppend (joined.append tile taken) tile bin.entries.length) ∧
          ∀ r x, (x < b.pa + 0x20 ∨ b.pa + 0x28 ≤ x) → (taken = [] ∨ ∀ n way, x ≠ v.entryAddr n way + 3) → w.byteAt r x = v.byteAt r x)) ∧
    ∀ p ∈ [(Instr.breplay o, false), (.bflush o, true)],
      let s1 := s.afterReads (o.c :: if o.rv = 1 then [o.rs] else [])
      ∀ t b cl u, RingPage s q a 64 t → s.set? t.pa = some b → (p.2 = false → b.hasTile s.hart = false) →
        Claims (s1.touch q t) (if o.rv = 1 then some (s.x o.rs) else none) none cl u →
        let v := (u.claimedSlot cl).release s.hart.place 3
        Completes p.1 s ([.x, .cmds, .promise, .choices] ++ mem) fun w =>
          w.cmds = s.cmds ++ [{
            place := s.hart.place, asid := q.asid, kind := if p.2 then .bflush b.pa else .breplay b.pa
            ring := cl.map fun c => (s.x o.rs, c.1)
            epc := s.hart.pc, taskid := s.hart.csr.taskid, nodeid := s.hart.csr.nodeid
            promise := w.hart.promise, ordered := v.seenStores s.hart.place }] ∧
          SameMemory w v ∧ WritesX o.d w.hart.promise s w ∧
          let pages := (pagesOf b.tbase (4 * b.tlen)).filterMap fun va =>
            match (u.claimedSlot cl).locate b.req va with
            | .ok l => some (va, l)
            | .error _ => none
          Promises s pages [] false (if p.2 then 0 else 4 * (b.bins.map (·.entries.length)).sum) w.hart.promise

/-- R324 to R336: the region instructions on handles: what each writes, the counts of the granules that it gains and loses, the stores that
the drop of a view releases, and its traps. -/
def Obligations.RegionInstructions : Prop :=
  ∀ (o : GOp) (s : State),
    let h (r : Reg) := s.hart.getH r.toNat
    let a := h o.a
    let asid := s.hart.accessAsid
    let lo := Handle.lo a
    let hi := Handle.hi a
    let gs := Handle.granules a
    let x := (s.x o.b).toNat
    let y := (s.x o.c).toNat
    let m := lo + x
    let dropped (r : Reg) := s.dropView s.hart.place asid r.toNat (h r)
    let l : List Piece := [.h, .acted, .arenas, .memory, .poison, .stores, .replicas]
    let writes (r : Nat) (v : Handle) (u : State) : Prop := u.hart.getH r = v
    let kept (rs : List Nat) (u : State) : Prop := ∀ k, k ∉ rs → u.hart.getH k = s.hart.getH k
    let arenasOf (u v : State) : Prop := u.arenas = v.arenas ∧ u.hart.acted = true ∧ SameMemory u v
    let named (r : Reg) : Prop := r.toNat < 16
    -- RALLOC
    (named o.d →
      let size := (s.x o.a).toNat
      let n := (size + 65535) / 65536
      ((size = 0 ∨ 2 ^ 40 ≤ size) → Completes (.ralloc o) s (.x :: .decoupling :: l) fun u =>
        WritesX o.c 1 s u ∧ writes o.d.toNat 0 u ∧ kept [o.d.toNat] u ∧ arenasOf u (dropped o.d)) ∧
      (size ≠ 0 → size < 2 ^ 40 → (dropped o.d).freeRun asid n = none → Completes (.ralloc o) s (.x :: .decoupling :: l) fun u =>
        WritesX o.c 2 s u ∧ writes o.d.toNat 0 u ∧ kept [o.d.toNat] u ∧ arenasOf u (dropped o.d)) ∧
      ∀ g, size ≠ 0 → size < 2 ^ 40 → (dropped o.d).freeRun asid n = some g → Completes (.ralloc o) s (.x :: .decoupling :: l) fun u =>
        WritesX o.c 0 s u ∧ writes o.d.toNat (mkHandle 0 size g true) u ∧ kept [o.d.toNat] u ∧ u.hart.acted = true ∧
        SameMemory u (dropped o.d) ∧ (∀ k, u.coverage asid k = if g ≤ k ∧ k < g + n then 1 else (dropped o.d).coverage asid k) ∧
        ∀ k r, g ≤ k → k < g + n → u.arena asid = some r → r.allocated k = true) ∧
    -- VFORK
    (o.d = o.a → s.hart.firmware = false → Traps (.vfork o) s .illegalInstruction 0 0 [] ∧ Traps (.vsplit o) s .illegalInstruction 0 0 []) ∧
    (o.d ≠ o.a → Handle.live a = false → s.hart.firmware = false →
      Traps (.vfork o) s .viewBound 0 (BitVec.ofNat 64 o.a.toNat) [] ∧
      Traps (.vsplit o) s .viewBound 0 (BitVec.ofNat 64 o.a.toNat) [.decoupling]) ∧
    (∀ k, o.d ≠ o.a → Handle.live a = true → s.saturated asid (h o.d) gs = some k → s.hart.firmware = false →
      Traps (.vfork o) s .coverageSaturation (s.granuleAddr asid k) (BitVec.ofNat 64 o.a.toNat) []) ∧
    (named o.d → o.d ≠ o.a → Handle.live a = true → s.saturated asid (h o.d) gs = none → Completes (.vfork o) s l fun u =>
      writes o.d.toNat (a &&& ~~~(2#128)) u ∧ kept [o.d.toNat] u ∧ arenasOf u ((dropped o.d).bumpAll asid true gs)) ∧
    -- VNARROW
    (Handle.live a = false → s.hart.firmware = false →
      Traps (.vnarrow o) s .viewBound 0 (BitVec.ofNat 64 o.a.toNat) [.decoupling]) ∧
    (Handle.live a = true → (y < x ∨ hi < lo + y) → s.hart.firmware = false →
      Traps (.vnarrow o) s .widening 0 (if hi < lo + y then s.x o.c else s.x o.b) [.decoupling]) ∧
    (named o.a → Handle.live a = true → x ≤ y → lo + y ≤ hi →
      let new := mkHandle m (lo + y) (Handle.region a) (Handle.writable a)
      Completes (.vnarrow o) s (.decoupling :: l) fun u => kept [o.a.toNat] u ∧
        if x = y then writes o.a.toNat 0 u ∧ arenasOf u (dropped o.a)
        else writes o.a.toNat new u ∧
          arenasOf u ((s.releaseView s.hart.place o.a.toNat).bumpAll asid false
            (gs.filter fun g => !(Handle.granules new).contains g))) ∧
    -- VSPLIT
    (o.d ≠ o.a → Handle.live a = true → (x = 0 ∨ hi ≤ m) → s.hart.firmware = false →
      Traps (.vsplit o) s .viewBound 0 (s.x o.b) [.decoupling]) ∧
    (
      let shared := if m % 65536 = 0 then [] else [Handle.region a + m / 65536]
      (∀ k, o.d ≠ o.a → Handle.live a = true → x ≠ 0 → m < hi → s.saturated asid (h o.d) shared = some k → s.hart.firmware = false →
        Traps (.vsplit o) s .coverageSaturation (s.granuleAddr asid k) (BitVec.ofNat 64 o.a.toNat) [.decoupling]) ∧
      (named o.d → named o.a → o.d ≠ o.a → Handle.live a = true → x ≠ 0 → m < hi → s.saturated asid (h o.d) shared = none →
      Completes (.vsplit o) s (.decoupling :: l) fun u => kept [o.d.toNat, o.a.toNat] u ∧
        writes o.a.toNat (mkHandle lo m (Handle.region a) (Handle.writable a)) u ∧
        writes o.d.toNat (mkHandle m hi (Handle.region a) (Handle.writable a)) u ∧
        arenasOf u ((dropped o.d).bumpAll asid true shared))) ∧
    -- VDROP, VINFO
    (named o.a → Completes (.vdrop o) s l (fun u => writes o.a.toNat 0 u ∧ kept [o.a.toNat] u ∧ arenasOf u (dropped o.a))) ∧
    Completes (.vinfo o) s [.x, .decoupling] (WritesX o.d (if Handle.live a = false then 0 else
      match o.imm.toNat % 4 with
      | 0 => BitVec.ofNat 64 lo
      | 1 => BitVec.ofNat 64 hi
      | 2 => BitVec.ofNat 64 (a.toNat % 2 ^ 48)
      | _ => s.arenaBase asid + BitVec.ofNat 64 (Handle.region a * 65536 + lo)) s) ∧
    -- VEXPORT, VIMPORT
    (named o.a →
      let slots := s.exportSlots asid
      let free (k : Nat) : Prop := (slots.getD k freshSlot).view = none ∧ (slots.getD k freshSlot).retired = false
      ((Handle.live a = false ∨ ∀ k < 4096, ¬ free k) → Completes (.vexport o) s [.x, .decoupling, .acted] (WritesX o.d 0 s)) ∧
      (∀ k < 4096, Handle.live a = true → free k → (∀ j < k, ¬ free j) →
        Completes (.vexport o) s [.x, .decoupling, .h, .acted, .exports] fun u =>
          WritesX o.d (BitVec.ofNat 64 ((slots.getD k freshSlot).generation * 4096 + k)) s u ∧ writes o.a.toNat 0 u ∧ kept [o.a.toNat] u ∧
          (u.exportSlots asid).getD k freshSlot = { slots.getD k freshSlot with view := some a } ∧
          ∀ j, j ≠ k → (u.exportSlots asid).getD j freshSlot = slots.getD j freshSlot)) ∧
    (named o.d →
      let token := s.x o.a
      let k := token.toNat % 4096
      let e := (s.exportSlots asid).getD k freshSlot
      (token = 0 → Completes (.vimport o) s (.decoupling :: l) fun u =>
        writes o.d.toNat 0 u ∧ kept [o.d.toNat] u ∧ arenasOf u (dropped o.d)) ∧
      (token ≠ 0 → (e.view = none ∨ token.toNat ≠ e.generation * 4096 + k) → s.hart.firmware = false →
        Traps (.vimport o) s .viewBound 0 token [.decoupling]) ∧
      ∀ v, token ≠ 0 → e.view = some v → token.toNat = e.generation * 4096 + k →
        Completes (.vimport o) s (.decoupling :: .exports :: l) fun u =>
          writes o.d.toNat v u ∧ kept [o.d.toNat] u ∧ arenasOf u (dropped o.d) ∧
          (u.exportSlots asid).getD k freshSlot =
            { e with
              generation := if e.generation = 0xFFFFF then e.generation else e.generation + 1
              view := none
              retired := decide (e.generation = 0xFFFFF) } ∧
          ∀ j, j ≠ k → (u.exportSlots asid).getD j freshSlot = (s.exportSlots asid).getD j freshSlot)

/-- R277, R279, R281, R337: SON puts a register into stream mode at the start of its pattern, with a private view if it names a handle, or
traps where a granule's count can take no more; SOFF leaves stream mode and zeroes the register, and SSTAT reports. EADDR is 0 where SON
meets an empty handle (notes/assumptions/68.md). -/
def Obligations.StreamControl : Prop :=
  ∀ (o : GOp) (s : State),
    let p := s.hart.getAP o.a.toNat
    let byHandle := o.fl.getLsbD 0
    let view := s.hart.getH o.b.toNat
    let asid := s.hart.asid
    let r := o.d.toNat
    let legal : Prop := APReg.wellFormed p = true ∧ (APReg.indexed p = true ↔ o.c ≠ 0)
    let l : List Piece := [.v, .streams, .decoupling, .arenas, .memory, .poison, .stores, .replicas, .dies]
    (¬ legal → s.hart.firmware = false → Traps (.son o) s .streamMisuse 0 1 [.decoupling]) ∧
    (legal → byHandle = true → Handle.live view = false → s.hart.firmware = false →
      Traps (.son o) s .viewBound 0 (BitVec.ofNat 64 o.b.toNat) [.decoupling]) ∧
    (∀ g, legal → byHandle = true → Handle.live view = true → s.saturated asid 0 (Handle.granules view) = some g →
      s.hart.firmware = false →
      Traps (.son o) s .coverageSaturation (s.granuleAddr asid g) (BitVec.ofNat 64 o.b.toNat) [.decoupling]) ∧
    (legal → 48 ≤ r → (byHandle = true → Handle.live view = true ∧ s.saturated asid 0 (Handle.granules view) = none) →
      Completes (.son o) s l fun u =>
        u.hart.stream r = some {
          pattern := p, base := s.x o.b, list := s.x o.c, number := o.b.toNat
          view := if byHandle then some (view &&& ~~~(2#128)) else none } ∧
        (∀ k, k ≠ r → u.hart.stream k = s.hart.stream k) ∧
        u.arenas = (if byHandle then (s.streamOff r).bumpAll asid true (Handle.granules view) else s.streamOff r).arenas ∧
        u.hart.own.reg r = (if (s.hart.stream r).isSome then 0 else s.hart.own.reg r) ∧
        (∀ k, k ≠ r → u.hart.own.reg k = s.hart.own.reg k) ∧ ∀ k, u.hart.own.scaleReg k = s.hart.own.scaleReg k) ∧
    (
      let r := o.a.toNat
      48 ≤ r → Completes (.soff o) s l fun u =>
        u.hart.stream r = none ∧ (∀ k, k ≠ r → u.hart.stream k = s.hart.stream k) ∧
        u.hart.own.reg r = (if (s.hart.stream r).isSome then 0 else s.hart.own.reg r) ∧
        (∀ k, k ≠ r → u.hart.own.reg k = s.hart.own.reg k) ∧
        u.arenas = (match (s.hart.stream r).bind (·.view) with
          | some v => if Handle.live v then s.bumpAll asid false (Handle.granules v) else s
          | none => s).arenas) ∧
    Completes (.sstat o) s [.x, .decoupling] (WritesX o.d (match s.hart.stream o.a.toNat with
      | none => 0
      | some st => BitVec.ofNat 64 (st.pos % 2 ^ 48 * 2 ^ 16 +
          (if st.buf.any fun b => match b with | .failure _ => true | .value _ => false then 4 else 0) +
          (if st.pos = APReg.total st.pattern then 2 else 0) + 1)) s)

/-! Tasks, barriers and system state (chapters 1, 4, 10, 12, 22). -/

/-- R165, R195, R200, R203, R286: END waits for the hart's commands, raises a late failure that is held, and else leaves: its handles,
streams, accumulators and memberships go, its slot is free, and the completion word counts it. -/
def Obligations.EndOfTask : Prop :=
  ∀ s : State,
    (s.commandPending s.hart.place = true → Waits .endTask s []) ∧
    (∀ l rest, s.commandPending s.hart.place = false → s.hart.lates = l :: rest → s.hart.firmware = false →
      Traps .endTask s l.cause l.address (BitVec.ofNat 64 l.seq.toNat) [.lates] ∧
      ∃ u, exec .endTask s = .next u ∧ u.hart.lates = rest) ∧
    (s.commandPending s.hart.place = false → s.hart.lates = [] →
      let acted : State := { s with hart := { s.hart with acted := true } }
      let alone := acted.dropViews.release s.hart.place 4
      let left := ((alone.leaveBarriers alone.hart).sealBins alone.hart).leaveSlot
      let last := left.countEnded alone.hart
      LeadsTo .endTask s { last with hart := { last.hart with arrived := last.cycle } } ∧
      left.hart.run = .idle ∧ left.hart.place = s.hart.place ∧ left.hart.waiting = none ∧
      (∀ k < 16, left.hart.getH k = 0 ∧ left.hart.stream (48 + k) = none) ∧
      (∀ k t, left.hart.getAC k ≠ .mapped t) ∧
      (∀ b ∈ left.barriers, ∀ m ∈ b.members, m.is s.hart = false) ∧
      left.parked = s.parked ∧
      ∀ r n, s.hart.task.ref = some r → s.node? r.graph r.node = some n →
        ∃ n', (left.mapNode r.graph r.node fun n => { n with ended := n.ended + 1 }).node? r.graph r.node = some n' ∧
          n'.ended = n.ended + 1 ∧ n'.killed = n.killed)

/-- R191, R194, R205, R206, R270, R371 to R373, R377: LAUNCH queues a submission once the die's queue has room, and with SYNC then waits for
the end of its validation (`GraphSteps`) and traps on a bad graph once its error record has been written; YIELDPT sets a pre-empted task aside with its image; SLEEPU and DRAIN wait or go on, and end by their events, and
WMARK raises a watermark word. What an image keeps of the scratchpad is notes/assumptions/75.md; LAUNCH's wait for a record
notes/assumptions/88.md. -/
def Obligations.TaskInstructions : Prop :=
  ∀ (o : GOp) (s : State),
    let a := s.x o.a
    let place := s.hart.place
    let asid := s.hart.accessAsid
    let d := s.die place.die
    let released := s.release place 4
    let mem : List Piece := [.memory, .replicas, .poison, .stores]
    (s.hart.firmware = false → s.hart.launched = none →
      (2 ^ 56 ≤ a.toNat → Traps (.launch o) s .protection a 0 [.decoupling]) ∧
      (a.toNat < 2 ^ 56 → a.toNat % 64 ≠ 0 → Traps (.launch o) s .misalignedAccess a 0 [.decoupling])) ∧
    (a.toNat < 2 ^ 56 → a.toNat % 64 = 0 → place.die < 4 → s.hart.launched = none →
      (64 ≤ d.launch.length → Waits (.launch o) s (.decoupling :: mem)) ∧
      (d.launch.length < 64 →
        let pieces : List Piece := [.x, .decoupling, .dies, .acted] ++ mem
        let taken (u : State) : Prop :=
          WritesX o.d d.launchSeq s u ∧ u.die place.die = { d with launch := d.launch ++ [(asid, a)], launchSeq := d.launchSeq + 1 } ∧
          (∀ k, k ≠ place.die → u.die k = s.die k) ∧ u.hart.acted = true ∧ SameMemory u released
        (o.fl.getLsbD 0 = false → Completes (.launch o) s pieces taken) ∧
        (o.fl.getLsbD 0 = true → Waits (.launch o) s (.trapping :: pieces) ∧
          ∃ u, exec (.launch o) s = .next u ∧ taken u ∧ u.hart.launched = some (.queued d.launchSeq)))) ∧
    (∀ n, s.hart.launched = some (.queued n) → Waits (.launch o) s []) ∧
    (s.hart.launched = some .passed → Completes (.launch o) s [.trapping] fun u => u.hart.launched = none) ∧
    (∀ g code record, s.hart.launched = some (.failed g code record) →
      (s.recordWaits g = true → Waits (.launch o) s []) ∧
      (s.recordWaits g = false → s.hart.firmware = false → Traps (.launch o) s .launchError record (BitVec.ofNat 64 code) [.trapping] ∧
        ∃ u, exec (.launch o) s = .next u ∧ u.hart.launched = none)) ∧
    ((s.hart.firmware = true ∨ s.hart.csr.preempt.getLsbD 0 = false ∨ s.hart.holdsBack = true) →
      Completes .yieldpt s [] fun _ => True) ∧
    (s.hart.firmware = false → s.hart.csr.preempt.getLsbD 0 = true → s.hart.holdsBack = false →
      (s.commandPending place = true → Waits .yieldpt s []) ∧
      ∀ l, s.commandPending place = false →
        let qw := s.hart.req (write := true)
        let image := s.hart.compactImage 1 0 s.cycle
        released.checkImage qw (s.hart.task.savep + BitVec.ofNat 64 (1536 * s.hart.csr.taskid.toNat)) image = .ok l →
        (∀ x ∈ l, ∃ t, x.2 = .at_ t) →
        let v := (l.zipIdx.foldl (fun v x => match x.1.2 with
          | .at_ t => v.writeTarget qw t ((image.drop (128 * x.2)).take 128)
          | .absent _ => v) released).release place 4
        ∃ u, LeadsTo .yieldpt s u ∧ u.hart.run = .idle ∧ u.hart.place = place ∧ SameMemory u v ∧
          ∀ r n, s.hart.task.ref = some r → s.node? r.graph r.node = some n →
            ∃ n', u.node? r.graph r.node = some n' ∧ n'.saved = n.saved ++ [{ tile := r.tile, die := place.die, acted := s.hart.acted, views := s.hart.views }] ∧ n'.ended = n.ended ∧ n'.next = n.next ∧
              let kept := v.keepBlocks s.hart r.tile
              n'.kept = (n.kept.map fun b => match kept.find? (·.contents == b.contents) with
                | some x => { b with bytes := x.bytes, poison := x.poison }
                | none => b) ++ kept) ∧
    (s.cycle < a → Waits (.sleepu o) s [.decoupling]) ∧
    (a ≤ s.cycle → ∀ i, (i = .sleepu o ∨ i = .sleepuWake ∧ s.waitsAt = some (.sleepu o)) →
      Completes i s [.decoupling] fun _ => True) ∧
    (o.imm.toNat % 16 = 0 → s.hart.firmware = false → Traps (.drain o) s .illegalInstruction 0 0 []) ∧
    (
      let held : Prop := o.imm.getLsbD 3 = true ∧ ∃ c ∈ s.cmds, c.place = place ∧ c.taken = false
      o.imm.toNat % 16 ≠ 0 → (held → Waits (.drain o) s []) ∧ (¬ held → Completes (.drain o) s [] fun _ => True) ∧
        (s.waitsAt = some (.drain o) → Completes .drainDone s [.cmds] fun u =>
          u.cmds = s.cmds.map fun c => if c.place = place then { c with taken := true } else c)) ∧
    (
      let q := s.hart.req (write := true) (atomic := true)
      ∀ va t, s.precheck q (.plain a) 8 [{ idx := 0, off := 0 }] = .ok [{ idx := 0, va, loc := .at_ t }] →
      s.claimed q.place t 8 true = false → (s.atSlice q t 8).poisonIn q.place t.pa t.pa 8 = false →
      let v := ((s.atSlice q t 8).release place (o.fl.toNat % 8)).atSlice q t 8
      Completes (.wmark o) s ([.decoupling, .acted, .tags, .tlb] ++ mem) fun u => u.hart.acted = true ∧
        (∀ r x, (x < t.pa ∨ t.pa + 8 ≤ x) → u.byteAt r x = v.byteAt r x) ∧
        ((∀ k < 8, v.loses (t.pa + k) = false) → u.memNat t.pa 8 = max (v.memNat t.pa 8) (s.x o.b).toNat))

/-- R201 to R204: BARJ joins or activates a barrier, BARA arrives at the hart's strip, BARW waits for the others, or traps when the barrier
can never fill, and BARL leaves; the last to leave deactivates it. A hart that is no member meets illegal instruction. What a hart's later
writes follow after BARW is notes/assumptions/84.md. -/
def Obligations.Barriers : Prop :=
  ∀ (o : GOp) (s : State) (t : Target),
    let a := s.x o.a
    let h := s.hart
    let qa := h.req (write := true)
    let strip := h.csr.stripn
    let scope := o.fl.toNat % 8
    let read : List Piece := [.decoupling, .memory, .poison, .stores, .tags, .tlb]
    let mem : List Piece := .replicas :: read
    let others (u : State) : Prop := ∀ pa, pa ≠ t.pa → u.barrier? pa = s.barrier? pa
    let imaged (u v : State) (b : Barrier) (least : Word) (active : Bool) : Prop :=
      u.memNat t.pa 32 = b.image least active ∧ ∀ r x, (x < t.pa ∨ t.pa + 32 ≤ x) → u.byteAt r x = v.byteAt r x
    let at_ := s.touch qa t
    RingPage s qa a 32 t false →
    (
      let count := (s.x o.b).toNat % 2 ^ 32
      let graph := h.task.ref.map (·.graph)
      let node := h.csr.nodeid.toNat
      let me : BarMember := { place := h.place, task := h.task.ref, address := a, phase := strip }
      let old := (s.barrier? t.pa).getD { asid := h.accessAsid, address := a, pa := t.pa, joins := 0, count := count, owner := node,
                                          graph := graph, members := [] }
      let refused : Prop := 4 ≤ h.bars.length ∨ ∃ b, s.barrier? t.pa = some b ∧ ((∃ m ∈ b.members, m.is h = true) ∨ 256 ≤ b.members.length ∨
        (b.count ≠ 0 ∧ (b.count ≠ count ∨ b.graph ≠ graph ∨ b.owner ≠ node)))
      (refused → h.firmware = false → Traps (.barj o) s .illegalInstruction 0 0 read) ∧
      let b' : Barrier := { old with members := me :: old.members, joins := old.joins + 1 }
      (¬ refused → Completes (.barj o) s (.barriers :: .bars :: mem) fun u => others u ∧
        u.barrier? t.pa = some b' ∧ u.hart.bars = h.bars ++ [(a, strip)] ∧
        imaged u (at_.settleAll t.pa 32) b' (b'.minPhase.getD 0) true)) ∧
    ((∀ b, s.barrier? t.pa = some b → ∀ m ∈ b.members, m.is h = false) → h.firmware = false →
      ∀ i ∈ [Instr.bara o, .barw o, .barl o], Traps i s .illegalInstruction 0 0 read) ∧
    ∀ b self, s.barrier? t.pa = some b → b.members.find? (·.is h) = some self →
      (
        let b' : Barrier := { b with members := b.members.map fun m => if m.is h then { m with phase := strip } else m }
        Completes (.bara o) s (.barriers :: .bars :: .acted :: mem) fun u => others u ∧ u.barrier? t.pa = some b' ∧
          imaged u ((at_.release h.place scope).settle h.req t.pa 32) b' (b'.minPhase.getD 0) true ∧
          u.hart.acted = (h.acted || decide (3 ≤ scope)) ∧ u.hart.bars = h.bars.map (fun p => if p.1 = self.address then (self.address, strip) else p)) ∧
      (s.orphaned b = true → h.firmware = false →
        Traps (.barw o) s .barrierOrphaned a (BitVec.ofNat 64 (b.count - b.joins)) read) ∧
      (
        let met : Prop := (∀ m ∈ b.members, m.is h = true ∨ strip.toNat - o.imm.toNat % 16 ≤ m.phase.toNat) ∧ b.count ≤ b.joins
        s.orphaned b = false → (met → ∀ i, (i = .barw o ∨ i = .barwWake ∧ s.waitsAt = some (.barw o)) →
          Completes i s (.ordered :: read) fun u => SameMemory u at_ ∧
            u.hart.ordered = if 4 ≤ scope then s.seenStores h.place else h.ordered) ∧
          (¬ met → Waits (.barw o) s read)) ∧
      (
        let b' : Barrier := { b with members := b.members.filter fun m => !m.is h }
        Completes (.barl o) s (.barriers :: .bars :: .choices :: mem) fun u => others u ∧
          u.hart.bars = h.bars.filter (fun p => p.1 ≠ self.address) ∧
          (b'.members ≠ [] → u.barrier? t.pa = some b' ∧ imaged u at_ b' (b'.minPhase.getD 0) true) ∧
          (b'.members = [] → u.barrier? t.pa = none ∧ ∃ least, imaged u at_ b' least false))

/-- R6, R15 to R20, R79, R80, R287, R371, R382: the CSR instructions read the old value into x[D] and write the new one with its reserved
bits ignored; a write of a read-only register at task privilege is ignored, or illegal where R16 marks it. Firmware's write of PREEMPT
starts the deadline of a task that can be pre-empted, or withdraws the request, and its write of HSTAT sets the privilege to a level that is
held. An access to FFLAGS waits for the commands that update it. What privilege codes 0b01 and 0b10 and a write of WSCAL do is the model's
choice (notes/assumptions/74.md and 15.md), and so is SEQF 0 of these traps (notes/assumptions/66.md). A read of a register of the other
unit is one loss of decoupling, counted as the instruction begins (R11, R272). A blind write of DGDROP does not clear drops that have not
landed (R180). -/
def Obligations.ControlRegisters : Prop :=
  ∀ (o : GOp) (s : State),
    let n := o.imm.toNat % 4096
    let a := s.x o.a
    let firmware := s.hart.firmware
    let updating : Prop := n = 0x008 ∧ ∃ c ∈ s.cmds, c.place = s.hart.place ∧ c.setsFlags = true
    let guarded : Prop := n ∈ [0x000, 0x006, 0x041, 0x042, 0x043, 0x044]
    let l : List Piece := [.x, .decoupling]
    let all : List Piece := [.x, .decoupling, .elx, .strip, .fflags, .dgdrop, .lidx, .togest, .retuse, .csrs]
    let dropsLeft (i : Instr) (v : Word) : Word :=
      if i = .csrw o ∧ o.d = 0 then BitVec.ofNat 64 (min 0xFFFFFFFF ((v &&& 0xFFFFFFFF).toNat + s.hart.landing)) else v &&& 0xFFFFFFFF
    let ofXu : Prop := n ∈ [0x001, 0x002, 0x004, 0x006, 0x007, 0x008, 0x009, 0x00A, 0x00B, 0x00C, 0x018, 0x019, 0x01A, 0x01B, 0x01C, 0x01D, 0x051]
    let loses : Prop := if ofXu then o.d.toNat < 32 else 32 ≤ o.a.toNat ∨ s.hart.fromXu.getLsbD o.a.toNat = true
    let byTask (i : Instr) : List (Nat × (Word → Word)) := [
      (0x005, fun v => if v.toNat < 1 then 1 else if 8 < v.toNat then 8 else v), (0x007, id), (0x008, fun v => v &&& 0x3F),
      (0x009, fun v => if 6 ≤ v.toNat % 8 then s.hart.csr.frm else v &&& 7), (0x00A, id), (0x00B, id),
      (0x00C, dropsLeft i), (0x030, fun v => v &&& 0xFFFFFFFFFFFF), (0x040, id), (0x050, fun v => v &&& 3)]
    let byFirmware : List (Nat × (Word → Word)) := [
      (0x001, id), (0x002, fun v => v &&& 0x1FF), (0x004, id), (0x006, id), (0x010, id), (0x011, id), (0x012, id), (0x013, id),
      (0x014, id), (0x015, id), (0x018, id), (0x019, id), (0x01A, id), (0x01B, id), (0x01C, id), (0x01D, id),
      (0x028, fun v => v &&& 0x7FFFFFFFFFFFF), (0x041, id), (0x042, fun v => v &&& 0xFFF), (0x043, id), (0x044, id), (0x051, fun v => v &&& 0xFF)]
    let wide : List Piece := (if n = 0x006 then [.m] else []) ++ all
    let others (u : State) : Prop := (∀ k, k ≠ 7 → u.hart.getM k = s.hart.getM k) ∧ ∀ m, m ≠ n → (m ≠ 0x006 ∨ firmware = true) → u.csr m = s.csr m
    (s.csr n = none → firmware = false → ∀ i ∈ [Instr.csrr o, .csrw o, .csrs o, .csrc o], Traps i s .illegalInstruction 0 0 []) ∧
    (guarded → firmware = false → Traps (.csrw o) s .illegalInstruction 0 0 [] ∧
      (o.a ≠ 0 → Traps (.csrs o) s .illegalInstruction 0 0 [] ∧ Traps (.csrc o) s .illegalInstruction 0 0 [])) ∧
    (updating → ∀ i ∈ [Instr.csrr o, .csrw o, .csrs o, .csrc o], Waits i s [.decoupling]) ∧
    (∀ old, s.csr n = some old → (firmware = true ∨ ¬ guarded) → ∀ i ∈ [Instr.csrr o, .csrw o, .csrs o, .csrc o],
      ∃ u, exec i s = .next u ∧ u.hart.counters.decloss =
        if s.hart.waiting = none ∧ loses then satIncr s.hart.counters.decloss else s.hart.counters.decloss) ∧
    ∀ old, s.csr n = some old → ¬ updating →
      Completes (.csrr o) s l (WritesX o.d old s) ∧
      (o.a = 0 → Completes (.csrs o) s l (WritesX o.d old s) ∧ Completes (.csrc o) s l (WritesX o.d old s)) ∧
      ∀ p ∈ [(Instr.csrw o, a), (.csrs o, old ||| a), (.csrc o, old &&& ~~~a)], (p.1 = .csrw o ∨ o.a ≠ 0) →
        (∀ f, (n, f) ∈ byTask p.1 → Completes p.1 s all fun u => WritesX o.d old s u ∧ u.csr n = some (f p.2) ∧ others u) ∧
        (∀ f, (n, f) ∈ byFirmware → firmware = true →
          Completes p.1 s wide fun u => WritesX o.d old s u ∧ u.csr n = some (f p.2) ∧ others u) ∧
        ((∀ f, (n, f) ∉ byTask p.1) → ¬ guarded → firmware = false → Completes p.1 s l (WritesX o.d old s)) ∧
        (n ∈ [0x003, 0x020] → Completes p.1 s l (WritesX o.d old s)) ∧
        (n = 0x021 → firmware = true →
          (p.2.getLsbD 0 = false → Completes p.1 s (.task :: all) fun u => WritesX o.d old s u ∧ u.csr n = some 0 ∧
            u.hart.deadline = none ∧ others u) ∧
          (p.2.getLsbD 0 = true → (s.hart.task.savep = 0 ∨ s.hart.csr.preempt.getLsbD 0 = true) → Completes p.1 s l (WritesX o.d old s)) ∧
          (p.2.getLsbD 0 = true → s.hart.task.savep ≠ 0 → s.hart.csr.preempt.getLsbD 0 = false →
            Completes p.1 s (.task :: .fwEvent :: .parked :: all) fun u => WritesX o.d old s u ∧ u.csr n = some 1 ∧
              u.hart.deadline = some (s.cycle + (s.die s.hart.place.die).deadline) ∧ others u ∧
              ∀ h ∈ s.parked, h.waiting = some .wfi → h.place.die = s.hart.place.die → h.place.core = s.hart.place.core →
                { h with fwEvent := true } ∈ u.parked)) ∧
        (n = 0x000 → firmware = true →
          (p.2.getLsbD 3 = true → p.2.getLsbD 4 = true →
            Completes p.1 s (.task :: all) fun u => WritesX o.d old s u ∧ u.csr 0 = some (p.2 &&& 0x31F) ∧ others u) ∧
          (p.2.getLsbD 3 ≠ p.2.getLsbD 4 →
            Completes p.1 s (.task :: all) fun u => WritesX o.d old s u ∧ u.csr 0 = some ((p.2 &&& 0x307) ||| 0x18) ∧ others u) ∧
          (p.2.getLsbD 3 = false → p.2.getLsbD 4 = false →
            Completes p.1 s (.task :: .privilege :: .m :: all) fun u => WritesX o.d old s u ∧ u.csr 0 = some (p.2 &&& 0x307) ∧
              u.hart.firmware = false ∧ u.csr 6 = some 0 ∧ (∀ k, k ≠ 7 → u.hart.getM k = s.hart.getM k) ∧
              ∀ m, m ≠ 0 → m ≠ 6 → u.csr m = s.csr m))

/-- R19, R20, R22 to R25, R42, R43, R82, R83, R237, R381, R405: ECALL and BRK trap past themselves and the two retired instructions trap at
themselves, counted; a trap at firmware privilege is fatal, after which no hart steps and only the host, the peers and stores on their way
go on (notes/assumptions/93.md). TRET goes back to where ECAUSE and EPC say, TLBINV drops the named copies, WFI waits for a firmware event,
whose arrival ends it; the three are illegal at task privilege, with the SEQF of the arrival at their slot. NOP changes the PC alone. A TRET
to the codes 0b01 and 0b10, and an event before a WFI, are as notes/assumptions/74.md and 47.md say. -/
def Obligations.ExceptionsAndPrivilege : Prop :=
  ∀ (o : GOp) (s : State),
    let h := s.hart
    let counted (lo : Nat) : Word := BitVec.ofNat 64 (h.csr.retuse.toNat - h.csr.retuse.toNat / 2 ^ lo % 2 ^ 16 * 2 ^ lo +
      min 65535 (h.csr.retuse.toNat / 2 ^ lo % 2 ^ 16 + 1) * 2 ^ lo)
    let kind := o.fl.toNat % 4
    let scope := o.fl.toNat / 4
    let named (c : TlbCopy) : Prop :=
      (if scope = 0 then c.die = h.place.die ∧ c.core = some h.place.core else if scope = 1 then c.die = h.place.die else True) ∧
      (if kind = 0 then True
        else if kind = 1 then Entry.asid c.entry = (s.x o.b).toNat % 4096 ∧ Entry.global c.entry = false
        else Entry.matches c.entry (Entry.size c.entry) (BitVec.ofNat 12 (s.x o.b).toNat) ((s.x o.a).toNat / 2 ^ 16 % 2 ^ 40) = true)
    Completes .nop s [] (fun _ => True) ∧
    (h.firmware = false → ∀ p ∈ [(Instr.ecall o, Cause.ecall), (.brk o, .brk)], ∃ u, exec p.1 s = .next u ∧
      Enters s u p.2 (nextPc h.pc) 0 (BitVec.ofNat 64 o.imm.toNat) false ∧ u.hart.csr.elx = h.csr.elx ∧ u.hart.getM 7 = h.getM 7 ∧
      Unchanged [.privilege, .csrs] s u) ∧
    (h.firmware = false → ∀ p ∈ [(Instr.dfan, Cause.retiredInstruction, (0xE001 : Word), 16), (.vld1k, .illegalInstruction, 0, 32)],
      Traps p.1 s p.2.1 0 p.2.2.1 [.retuse] ∧ ∃ u, exec p.1 s = .next u ∧ u.hart.csr.retuse = counted p.2.2.2) ∧
    (h.firmware = true → ∃ u, exec (.ecall o) s = .next u ∧ u.hart = h ∧ Unchanged [.fatal] s u ∧
      u.fatal = some { why := .firmwareTrap, place := h.place, epc := nextPc h.pc
                       ecause := 0x616, eaddr := 0, einfo := BitVec.ofNat 64 o.imm.toNat }) ∧
    (∀ r, s.fatal = some r → (s.agenda = [] → step s = .next s) ∧
      ∀ i arg rest, s.agenda = .event i arg :: rest →
        i ∉ [Instr.hostRead, .hostWrite, .brynedFlit, .brynedRequest, .accessPerform, .rdWritePerform] →
        step s = .next { s with agenda := rest }) ∧
    (h.firmware = false → ∀ i ∈ [Instr.tret, .tlbinv o, .wfi], ∃ u, exec i s = .next u ∧
      Enters s u .illegalInstruction h.pc 0 0 h.sequential ∧ u.hart.csr.elx = h.csr.elx ∧ u.hart.getM 7 = h.getM 7 ∧
      Unchanged [.privilege, .csrs] s u) ∧
    (h.firmware = true →
      (
        let back : State := { s with hart := h.returned }
        let epc := h.csr.epc
        let seqf := h.csr.ecause.getLsbD 11
        (isPc epc = true → (seqf = true ∨ back.refusesTarget epc = false) → ∃ u, exec .tret s = .next u ∧
          u.hart.firmware = decide (h.csr.ecause.toNat / 512 % 4 = 3) ∧ u.hart.pc = epc ∧ u.hart.sequential = seqf ∧
          u.hart.waiting = none ∧ u.hart.csr = h.csr ∧ u.hart.getM 7 = h.getM 7 ∧ Unchanged [.privilege] s u) ∧
        ((isPc epc = false ∨ (seqf = false ∧ back.refusesTarget epc = true)) →
          ∃ u r, exec .tret s = .next u ∧ u.fatal = some r ∧ r.why = .firmwareTrap ∧ r.eaddr = epc)) ∧
      (Completes (.tlbinv o) s [.memory, .poison, .stores, .replicas, .tlb] fun u =>
        let v := (s.release h.place 4).flushWithin h.place scope
        (∀ c, c ∈ u.tlb ↔ c ∈ s.tlb ∧ ¬ named c) ∧ (∀ r a, u.byteAt r a = v.byteAt r a) ∧ (∀ r d, u.poisonFrom r d d = v.poisonFrom r d d) ∧
        ∀ w ∈ u.pend, ¬(if scope = 0 then w.place.die = h.place.die ∧ w.place.core = h.place.core
          else if scope = 1 then w.place.die = h.place.die else True)) ∧
      (h.fwEvent = true → Completes .wfi s [.fwEvent] fun u => u.hart.fwEvent = false) ∧
      (s.waitsAt = some .wfi → Completes .wfiWake s [.fwEvent] fun u => u.hart.fwEvent = false) ∧
      (h.fwEvent = false → Waits .wfi s []))


/-! What the package does of itself (chapters 10 to 24). -/

/-- R259, R262, R270, R286, R287, R289 to R291, R293, R295, R296, R300, R315, R321, R394, R395: one access of a command moves one element,
drains one cell or marks one frame, and the event of the completion performs what is left; the command fills its ring slot and leaves at
package scope with its flags ORed and its late failure held for its hart; BREPLAY and BFLUSH end when their set may; an access to a missing
page appends an engine's fault record and blocks the command until firmware has mapped the page, or kills the task. A missed promise is
counted (R288). Elements go in ascending order (notes/assumptions/30.md). -/
def Obligations.CommandProgress : Prop :=
  ∀ (s : State) (k : Nat) (c : Cmd),
    s.cmds[k]? = some c → (∀ o ∈ s.cmds.take k, o.place ≠ c.place) → c.filled = false →
    let one : State := { s with arg := .index (s.pend.length + k) }
    let all : State := { s with arg := .index k }
    let next (fl : Flags) (n : Nat) : Cmd := { c with taken := true, done := c.done + 1, flags := c.flags ||| fl, bytes := c.bytes + n }
    let closed (c : Cmd) (fl : Flags) (failure : Option (Cause × Word)) : Cmd := { c with flags := c.flags ||| fl, failure }
    -- everything has performed
    (c.blocked = false → c.isOver = true → ∀ w slot, FillsRing (all.release c.place 4) c w slot →
      ∃ u, LeadsTo .commandCompletion all u ∧ Leaves s k c all u) ∧
    (c.blocked = false → c.isOver = false → c.failure = none →
      -- one element
      (∀ u fl n, Performs one c u fl n → c.done + 1 < c.elements →
        let t : State := { u with cmds := s.cmds.set k (next fl n) }
        LeadsTo .accessPerform one t ∧ exec .commandCompletion all = exec .commandCompletion { t with arg := .index k }) ∧
      (∀ v fl n, Performs all c v fl n → c.done + 1 = c.elements → ∀ w slot, FillsRing (v.release c.place 4) (next fl n) w slot →
        ∃ u, LeadsTo .commandCompletion all u ∧ Leaves s k (next fl n) v u) ∧
      -- a failure
      (∀ src dst store e1 e2 v, c.kind.sides = some (src, dst, store) → ListsRead all c src dst e1 e2 v → 1 ≤ c.elements →
        let read := v.sideTarget c src c.done e1 false false
        let write := v.sideTarget c dst c.done e2 true store
        (∀ va t vb t', read = .ok (va, .at_ t) → write = .ok (vb, .at_ t') → t.protected_ = true → t'.protected_ = false →
          ∀ w slot, FillsRing (v.release c.place 4) (closed c 0 (some (.protectedEgress, va))) w slot →
          ∃ u, LeadsTo .commandCompletion all u ∧ Leaves s k (closed c 0 (some (.protectedEgress, va))) v u) ∧
        (∀ t : Trap, (read = .error t ∨ (∃ va x, read = .ok (va, .at_ x)) ∧ write = .error t) →
          let v' := if t.cause = .protection then v.dropCopies c.place c.asid t.addr else v
          ∀ w slot, FillsRing (v'.release c.place 4) (closed c 0 (some (t.cause, t.addr))) w slot →
          ∃ u, LeadsTo .commandCompletion all u ∧ Leaves s k (closed c 0 (some (t.cause, t.addr))) v' u)) ∧
      -- a missing page
      (∀ src dst store e1 e2 v va bad, c.kind.sides = some (src, dst, store) → ListsRead one c src dst e1 e2 v → 1 ≤ c.elements →
        v.sideTarget c src c.done e1 false false = .ok (va, .absent bad) → c.place.die < 4 → (s.die c.place.die).queueFull = false →
        ∃ u, LeadsTo .accessPerform one u ∧ u.cmds = s.cmds.set k { c with taken := true, blocked := true } ∧
          (u.die c.place.die).faults = (s.die c.place.die).faults ++
            [faultRecord c.requester (src.req c.req false) va bad 1 s.cycle (s.die c.place.die).faultSeq]) ∧
      -- the commands of the Sieve
      (∀ pa b, s.set? pa = some b → (c.kind = .breplay pa ∨ c.kind = .bflush pa) →
        let ends : Prop := c.kind = .bflush pa ∨
          (s.setTiles b).2 ≤ (s.setTiles b).1 ∧ (b.failure.isSome = true ∨ (s.setTiles b).2 ≤ b.horizon)
        (ends → ∀ w slot, FillsRing ((all.dropSet b).release c.place 4) (closed c b.flags b.failure) w slot →
          ∃ u, LeadsTo .commandCompletion all u ∧ Leaves s k (closed c b.flags b.failure) (all.dropSet b) u) ∧
        (¬ ends → LeadsTo .commandCompletion all { all with cmds := s.cmds.set k { c with taken := true } }))) ∧
    -- firmware's service
    (c.blocked = true → c.isOver = false → 1 ≤ c.elements →
      (∀ src dst store e1 e2 v va bad, c.kind.sides = some (src, dst, store) → ListsRead all c src dst e1 e2 v →
        v.sideTarget c src c.done e1 false false = .ok (va, .absent bad) → LeadsTo .ladleFaultResume all all) ∧
      (∀ u fl n, Performs all c u fl n →
        LeadsTo .ladleFaultResume all { all with cmds := s.cmds.set k { c with blocked := false } })) ∧
    -- a manifest
    (∀ w h delta (identifier : Word) (n : BitVec 32) (frame : List Byte), let m := manifest w h delta identifier n frame
      m.length = 4096 ∧ m.drop (80 + 64 + 3309) = List.replicate 643 0 ∧
      m.take 80 = toBytes 4 0x4B52414D ++ toBytes 2 w ++ toBytes 2 h ++ toBytes 8 identifier.toNat ++ toBytes 4 n.toNat ++
        toBytes 4 delta ++ toBytes 8 0 ++ sha3_384 frame) ∧
    (c.blocked = true → ∀ h, s.harts.find? (fun h => h.place == c.place && h.run == .running) = some h →
      ∃ u, LeadsTo .ladleFaultResume { s with arg := .cannotMap k } u ∧ ∀ o ∈ u.cmds, o.place ≠ c.place)

/-- R165, R170, R235, R259, R263, R279, R315 to R317, R321, R338, R385 to R388: a store that waits performs for every agent, with its poison and,
if it is held, with the replicas of its page gone, or for the agents of one more die, those that it follows first; tiles return to the core;
the Scraper frees a granule that no view counts and to which, or through a view of which, no store waits; a stream reads ahead; the Sieve applies the horizon's sub-bin,
stops at a page that is missing and is served; the migration unit copies a line with its poison and the objects in it, poisoned from behind a port that is down (R388); the diagonal engine
picks the hart whose instruction has waited longest, and one of the least estimate of a first step, on windows as its streams' pops give
them, first while headroom is low; an instruction whose pop has to wait is not picked. The age of an instruction is
that of notes/assumptions/28.md, who sees a store when that of notes/assumptions/12.md, its poison that of notes/assumptions/9.md, and the
TLB copies of a migrating page those of notes/assumptions/109.md. -/
def Obligations.EngineSteps : Prop :=
  ∀ s : State,
    (∀ k p, s.arg = .index k → s.pend[k]? = some p →
      (∀ o ∈ s.pend.take k, p.follows o = false) → (∀ o ∈ s.pend.eraseIdx k, o.id ≠ p.id) →
      ∃ u, LeadsTo (if p.held then .rdWritePerform else .accessPerform) s u ∧ u.pend = s.pend.eraseIdx k ∧
        (∀ j < p.bytes.length, s.loses (p.address + j) = false →
          u.mem.get 0 (p.address + j) = mergeByte p.mask (p.bytes.getD j 0) (s.mem.get 0 (p.address + j))) ∧
        (∀ a, (a < p.address ∨ p.address + p.bytes.length ≤ a) → u.mem.get 0 a = s.mem.get 0 a) ∧
        ((∀ j < p.bytes.length, s.loses (p.address + j) = false) → ∀ d ∈ doublewords p.address p.bytes.length,
          u.poison.get false d = markAfter p.address p.bytes.length p.poisoned d (s.poison.get false d)) ∧
        ∀ die < 4, p.held = true → 0 < p.frames → u.replicas.get 0 (die * 2 ^ 40 + p.address / 2 ^ 16) = 0) ∧
    (∀ k p die, s.arg = .seenBy k die → s.pend[k]? = some p →
      ((p.held = true ∨ p.shown die = true ∨ ∃ o ∈ s.pend.take k, p.follows o = true ∧ o.shown die = false) →
        LeadsTo .accessPerform s s) ∧
      (die < 4 → p.held = false → p.shown die = false → (∀ o ∈ s.pend.take k, p.follows o = true → o.shown die = true) →
        ∃ u, LeadsTo .accessPerform s u ∧ { p with seen := insertDistinct die p.seen } ∈ u.pend ∧ u.pend.length = s.pend.length ∧
          Unchanged [.memory, .poison, .stores] s u)) ∧
    (∃ u, LeadsTo .tileReturn s u ∧ u.hart.ac = s.hart.ac ∧ u.hart.retiring ≤ s.hart.retiring ∧
      ((∀ c ∈ s.cmds, c.place = s.hart.place → ∀ j, c.kind = .adrainm j → j.retired = none) → u.hart.retiring = 0) ∧
      (∀ c ∈ s.cmds, c.place = s.hart.place → ∀ j, c.kind = .adrainm j → j.retired.isSome = true →
        (∀ o ∈ s.cmds, o.place = s.hart.place → ∀ i, o.kind = .adrainm i → i.retired = j.retired → i.tile = j.tile) →
        min s.hart.retiring (AcName.tiles (.mapped j.tile)) ≤ u.hart.retiring) ∧
      Unchanged [.ac] s u) ∧
    (∀ asid g a, s.arg = .granule asid g → s.arena asid = some a →
      (a.allocated g = true → a.count g = 0 → (∀ c ∈ s.cmds, c.asid = asid → c.views g = false) →
        (∀ p ∈ s.pend, p.asid = asid → ∀ n v, p.view = some (n, v) → g ∉ Handle.granules v) →
        s.granulePending asid g = false → ∃ u b, LeadsTo .scraperFree s u ∧ u.arena asid = some b ∧ b.word g = 0 ∧ (∀ h, h ≠ g → b.word h = a.word h) ∧
          Unchanged [.arenas] s u) ∧
      ((a.count g ≠ 0 ∨ (∃ c ∈ s.cmds, c.asid = asid ∧ c.views g = true) ∨
          (∃ p ∈ s.pend, p.asid = asid ∧ ∃ n v, p.view = some (n, v) ∧ g ∈ Handle.granules v) ∨ s.granulePending asid g = true) →
        LeadsTo .scraperFree s s)) ∧
    (∀ r st, s.arg = .refill r 1 → s.hart.stream r.toNat = some st →
      let next := st.pos + st.buf.length
      let room : Prop := next < APReg.total st.pattern ∧ (st.buf.length + 1) * APReg.size st.pattern ≤ 1024
      (¬ room → LeadsTo .streamRefill s s) ∧
      (room → ∀ e t, streamElem s.hart.streamReq st next s = .error e t → LeadsTo .streamRefill s s) ∧
      (room → ∀ x t, streamElem s.hart.streamReq st next s = .ok x t → ∃ u, LeadsTo .streamRefill s u ∧ SameMemory u t ∧
        u.hart.stream r.toNat = some { st with buf := st.buf ++ [match x with
          | .ok v => .value v
          | .error f => .failure f] } ∧
        ∀ k, k ≠ r.toNat → u.hart.stream k = s.hart.stream k)) ∧
    (∀ k b, s.arg = .index k → s.sets[k]? = some b → s.set? b.pa = some b → b.failure = none →
      let entries := (b.bin b.horizon).entries
      (b.blocked = none → (b.bin b.horizon).sealed = true → ∀ region (ts : List Target), entries ≠ [] →
        (∀ e ∈ entries, b.region e = region) → entries.map (s.entryTarget b b.horizon) = ts.map .ok →
        let applied := (entries.zip ts).foldl (fun acc p =>
          let x := acc.1.applyEntry b b.horizon p.1 p.2
          (x.1, acc.2 ||| x.2)) (s, (0 : Flags))
        ∃ u b', LeadsTo .sieveApply s u ∧ u.set? b.pa = some b' ∧ b'.horizon = b.horizon + 1 ∧ b'.flags = b.flags ||| applied.2 ∧
          (∀ j, j ≠ b.horizon → b'.bin j = b.bin j) ∧
          SameMemory u (applied.1.putObject (b.pa + 0x20)
            (toBytes 8 ((b.horizon + 1) % 2 ^ 32 * 2 ^ 32 + 2 ^ 31 + (b.flags ||| applied.2).toNat)))) ∧
      (b.blocked = none → (b.bin b.horizon).sealed = true → ∀ e q va bad, entries = [e] →
        s.entryTarget b b.horizon e = .error (.absent q va bad) → b.die < 4 →
        ∃ u, LeadsTo .sieveApply s u ∧ u.set? b.pa = some { b with blocked := if (s.die b.die).queueFull then none else some va } ∧
          (u.die b.die).faults = (s.die b.die).faults ++ (if (s.die b.die).queueFull then [] else
            [faultRecord (sieveRequester b b.horizon) q va bad 1 s.cycle (s.die b.die).faultSeq])) ∧
      (∀ va, b.blocked = some va →
        ((∃ bad, s.translate b.req va = .absent bad) → LeadsTo .sieveFaultResume s s) ∧
        ((∀ bad, s.translate b.req va ≠ .absent bad) →
          ∃ u, LeadsTo .sieveFaultResume s u ∧ u.set? b.pa = some { b with blocked := none }))) ∧
    (∀ k b va, s.arg = .cannotMap k → s.sets[k]? = some b → s.set? b.pa = some b → b.blocked = some va →
      ∀ region, s.missingEntry b = some (region, va) →
      let waiting := (b.bin b.horizon).entries.filter (b.region · == region)
      let first := s.applicable b b.horizon waiting
      ∃ u b', LeadsTo .sieveFaultResume s u ∧ u.set? b.pa = some b' ∧ b'.failure = some (.pageFault, va) ∧ b'.blocked = none ∧
        b'.horizon = b.horizon ∧ (∀ j, j ≠ b.horizon → b'.bin j = b.bin j) ∧
        ((b'.bin b.horizon).entries.filter (b.region · == region)) = waiting.drop first.1.length ∧
        ((b'.bin b.horizon).entries.filter (b.region · != region)) = (b.bin b.horizon).entries.filter (b.region · != region)) ∧
    (∀ i j, s.arg = .entry i j →
      let e := s.entryAt i j
      let c := s.entryAt i (j + 1)
      let prog := c.toNat / 2 ^ 71 % 2 ^ 21
      let src := s.routed (Entry.frame e * 2 ^ 16 + 128 * prog)
      let dst := s.routed (c.toNat / 2 ^ 92 % 2 ^ 36 * 2 ^ 16 + 128 * prog)
      Entry.valid e = true → Entry.migrating e = true → Entry.bad e j c = false → prog < Entry.lines e →
      let v := s.performPending fun p => p.address < src + 128 && src < p.address + p.bytes.length
      let at_ := s.entryAddr i (j + 1)
      ∃ w : State, LeadsTo .migrationLineCopy s ((w.markWrite at_ 16 false).setMemBytes at_ (toBytes 16 (c.toNat + 2 ^ 71))) ∧
        w.barriers = s.barriers.map (fun b => { b with pa := movedWith src dst b.pa }) ∧
        w.sets = s.sets.map (fun b => { b with pa := movedWith src dst b.pa }) ∧
        (∀ x, x ∈ w.tlb ↔ x ∈ s.tlb ∧
          ¬(Entry.asid x.entry = Entry.asid e ∧ Entry.vpn x.entry = Entry.vpn e ∧ Entry.size x.entry = Entry.size e)) ∧
        (s.unreachable dst = false →
          (∀ n < 128, w.mem.get 0 (dst + n) = v.mem.get 0 (src + n)) ∧
          ∀ n < 16, w.poison.get false (dst / 8 + n) = (v.poison.get false (src / 8 + n) || s.unreachable src)) ∧
        (s.unreachable dst = true → w.mem = v.mem ∧ w.poison = v.poison) ∧
        ∀ a, (a < dst ∨ dst + 128 ≤ a) → w.mem.get 0 a = v.mem.get 0 a) ∧
    ∀ die core, s.arg = .core die core →
      let heads := s.queueHeads die core
      let d := s.die die
      let headroom : Int := (d.budgetUnits.toNat : Int) - d.charged
      let low : Prop := match d.threshold with
        | some v => headroom < v.toNat
        | none => 8 * headroom < d.budgetUnits.toNat
      (∀ p ∈ heads, ∃ h ∈ s.harts, h.place = p.place ∧ h.run = .running ∧ h.arrived = p.since ∧ ∃ i run, s.diagonalAt h = some (i, run) ∧
        ∀ r, run = some r → ∀ x v, popWindows r { s with hart := h } = .ok x v → p.estimate = s.stepEstimate v.hart r) ∧
      (∀ h ∈ s.harts, ∀ i r v, s.diagonalAt h = some (i, some r) → popWindows r { s with hart := h } = .error .wait v →
        (∀ g ∈ s.harts, g.place = h.place → g = h) → ∀ p ∈ heads, p.place ≠ h.place) ∧
      let older (p q : QueueHead) : Prop := p.since < q.since ∨ (p.since = q.since ∧ p.place.slot ≤ q.place.slot)
      (heads = [] → LeadsTo .diagonalEnginePick s s) ∧
      (heads ≠ [] → ∃ p ∈ heads,
        (low → ∀ q ∈ heads, p.estimate < q.estimate ∨ (p.estimate = q.estimate ∧ older p q)) ∧ (¬ low → ∀ q ∈ heads, older p q) ∧
        ∀ o t, ∀ i ∈ [Instr.dprod o, .dcorr o, .dapply o], fetchInstr (s.turnTo p.place) = .ok i t →
          ∃ u, LeadsTo .diagonalEnginePick s u ∧ exec i t = .next u)

/-- R189, R191 to R195, R197 to R199, R13, R16, R28, R410: GO queues a graph of the function's own contexts, or sets OVF; the oldest graph
of a queue is validated, and runs only without a failure, and the LAUNCH that waits for its ticket goes on; a node whose predecessors are complete is released and its completion word zeroed;
ENDED reaching TILES sets DONE; the next tile of a node is placed where it fits, at the registers of R13; an entry ages; a waiting write is
made, reported once the fault queue has room, skipped, or aborts its graph. The turns of entries are notes/assumptions/86.md; a walk that
meets poison skips a write (notes/assumptions/106.md). -/
def Obligations.GraphSteps : Prop :=
  ∀ s : State,
    (∀ fn q asid, s.arg = .queue fn q asid →
      let old := s.queues.get {} (queueKey fn q)
      let good : Prop := asid ≠ 0 ∧ s.assigned.get 0 asid.toNat = fn + 1 ∧ old.queue.length < 256
      let leaves (i : Instr) (new : LaunchQueue) : Prop := ∃ u, LeadsTo i s u ∧ u.queues.get {} (queueKey fn q) = new ∧
        ∀ k, k ≠ queueKey fn q → u.queues.get {} k = s.queues.get {} k
      (fn < 16 → q < 16 →
        (good → leaves .lqGo { old with queue := old.queue ++ [(asid, old.gaddr)] }) ∧
        (¬ good → leaves .lqGo { old with ovf := true }) ∧
        leaves .lqOvfClear { old with ovf := false }) ∧
      ((16 ≤ fn ∨ 16 ≤ q) → LeadsTo .lqGo s s ∧ LeadsTo .lqOvfClear s s)) ∧
    let answered (u : State) (die : Nat) (end_ : Launched) : Prop :=
      ∀ h ∈ s.harts, h.place.die = die → ∃ h' ∈ u.harts, h'.place = h.place ∧ h'.launched =
        if h.launched = some (.queued ((s.die die).launchSeq - BitVec.ofNat 64 (s.die die).launch.length)) then some end_ else h.launched
    (∀ src asid header rest, s.arg = .submission src →
      (match src with
        | .host fn q => (s.queues.get {} (queueKey fn q)).queue = (asid, header) :: rest
        | .device die => (s.die die).launch = (asid, header) :: rest) →
      ∃ u, LeadsTo .graphValidation s u ∧ u.nextGraph = s.nextGraph + 1 ∧
        (match src with
          | .host fn q => (u.queues.get {} (queueKey fn q)).queue = rest
          | .device die => die < 4 → (u.die die).launch = rest) ∧
        ((∀ die < 4, s.headerFault die asid header ≠ none) → u.graphs = s.graphs) ∧
        (∀ die < 4, ∀ bad, src = .device die → s.headerFault die asid header = some bad →
          answered u die (.failed s.nextGraph bad.code bad.record)) ∧
        ∀ v records, (∀ die < 4, s.headerFault die asid header = none ∧ s.agentRead die asid header 64 = some v ∧
            s.nodeFaults die asid (BitVec.ofNat 64 v) 0 (v / 2 ^ 64 % 2 ^ 32) = .ok records) →
          (∀ die < 4, src = .device die → answered u die .passed) ∧
          ∃ gr ∈ u.graphs, gr.id = s.nextGraph ∧ gr.asid = asid ∧ gr.header = header ∧ gr.aborted = false ∧
            gr.errp = BitVec.ofNat 64 (v / 2 ^ 128) ∧ gr.gdonep = BitVec.ofNat 64 (v / 2 ^ 192) ∧
            gr.nodes = records.map fun r => ({ record := r } : Node)) ∧
    (∀ (w : DispWrite) x, s.locate w.req w.address = .ok (.at_ (.page x)) → (Entry.cls x.entry = 0 ∨ Entry.cls x.entry = 2) →
      let t := s.atHome w.req (.page x) w.op.size
      ∃ u, s.tryDispatch w = (u, .performed) ∧ (∀ a, (a < x.pa ∨ x.pa + w.op.size ≤ a) → u.mem.get 0 a = t.mem.get 0 a) ∧
        ((∀ k < w.op.size, t.loses (x.pa + k) = false) → u.memNat x.pa w.op.size =
          (match w.op with
            | .bytes v _ => v
            | .ended f => (t.memNat x.pa 8 ||| f.toNat) + 2 ^ 32
            | .done => t.memNat x.pa 8 ||| 2 ^ 31
            | .fail => t.memNat x.pa 8 ||| (2 ^ 31 + 2 ^ 30)) % 2 ^ (8 * w.op.size))) ∧
    (∀ g n gr nd, s.arg = .node g n → s.graph? g = some gr → s.node? g n = some nd →
      let word (die : Nat) (op : DispOp) : DispWrite :=
        { die, asid := gr.asid, graph := g, node := n, address := nd.record.donep, op, completion := true }
      let free (op : DispOp) : Prop := ∀ w ∈ s.dispWrites, (word 0 op).behind w = false
      (gr.mayRelease nd = true → s.nodeBusy g n = false → gr.producerDone nd = false → free (.bytes 0 8) →
        ∃ die < 4, ∀ t, s.tryDispatch (word die (.bytes 0 8)) = (t, .performed) → ∃ u, LeadsTo .nodeRelease s u ∧
          u.node? g n = some { nd with released := true, waited := Vector.replicate 4 0, turn := Vector.replicate 4 s.turns } ∧
          SameMemory u t) ∧
      ((gr.mayRelease nd = false ∨ s.nodeBusy g n = true) → LeadsTo .nodeRelease s s) ∧
      (nd.released = true → nd.complete = false → gr.aborted = false → nd.record.tiles ≤ nd.ended → s.doneWaits g n = false → free .done →
        ∃ die < 4, ∀ t, s.tryDispatch (word die .done) = (t, .performed) → ∃ u nd', LeadsTo .nodeCompletion s u ∧
          u.node? g n = some nd' ∧ nd'.complete = true ∧
          ((∀ m ∈ gr.nodes, m.record.wmnode ≠ some n) → (∃ k m, k ≠ n ∧ gr.nodes[k]? = some m ∧ m.complete = false) →
            SameMemory u t)) ∧
      ((nd.ended < nd.record.tiles ∨ s.doneWaits g n = true) → LeadsTo .nodeCompletion s s)) ∧
    (∀ g n gr nd p, s.arg = .place g n [p] → s.graph? g = some gr → s.node? g n = some nd → nd.picks 1 = [.fresh [nd.next]] →
      let fits : Prop := nd.released = true ∧ gr.aborted = false ∧ s.fitsAt nd.record [] p = true ∧
        s.mayPlace { graph := g, asid := gr.asid, index := n, node := nd } p.die [p] = true ∧
        s.preferred nd.record (fun _ => true) [] [p] = true
      (¬ fits → LeadsTo .tilePlace s s) ∧
      (fits → ∃ u, LeadsTo .tilePlace s u ∧ u.node? g n = some { nd with
          next := nd.next + 1, waited := Vector.replicate 4 0, turn := nd.turn.setIfInBounds p.die s.turns } ∧
        ∃ h ∈ u.harts, h.place = p ∧ h.run = .running ∧ h.asid = gr.asid ∧
          h.task.ref = some { graph := gr.id, node := n, tile := nd.next } ∧
          h.csr.taskid = BitVec.ofNat 64 nd.next ∧ h.csr.nodeid = BitVec.ofNat 64 n ∧
          h.csr.taskn = BitVec.ofNat 64 nd.record.tiles ∧ h.csr.argp = nd.record.argp ∧ h.det = nd.record.det ∧ h.pair = nd.record.pair ∧
          (∀ r, h.getX r = if r = 2 then 0x00FFFFFFFFF50000 - BitVec.ofNat 64 (0x4000 * p.slot)
            else if r = 3 then nd.record.argp else 0) ∧
          (isPc nd.record.entry = true →
            State.refusesTarget { s with hart := freshHart gr n nd.record nd.next p } nd.record.entry = false →
            h.pc = nd.record.entry ∧ h.firmware = false))) ∧
    (∀ g n nd asid die, s.arg = .aging g n die → s.node? g n = some nd → nd.released = true → nd.left = true →
      nd.record.dieAllowed die = true → die < 4 →
      ∃ u nd', LeadsTo .priorityAging s u ∧ u.node? g n = some nd' ∧
        (∀ d < 4, nd'.waited.getD d 0 = nd.waited.getD d 0 + if d = die then 1 else 0) ∧
        QEntry.prio { graph := g, asid, index := n, node := nd' } die = nd.record.prio - (nd.waited.getD die 0 + 1)) ∧
    ∀ k w, s.dispWrites[k]? = some w → (∀ v ∈ s.dispWrites.take k, w.behind v = false) →
      (s.arg = .index k →
        (∀ t, s.tryDispatch w = (t, .performed) → w.op ≠ .done → ∃ u, LeadsTo .dispatcherWriteResume s u ∧
          u.dispWrites = s.dispWrites.eraseIdx k ∧ SameMemory u t) ∧
        (∀ t bad, s.tryDispatch w = (t, .waits bad) →
          ((w.told = true ∨ (s.die w.die).queueFull = true) → LeadsTo .dispatcherWriteResume s s) ∧
          (w.told = false → w.die < 4 → (s.die w.die).queueFull = false → ∃ u, LeadsTo .dispatcherWriteResume s u ∧
            u.dispWrites = s.dispWrites.set k { w with told := true } ∧ (u.die w.die).faults = (s.die w.die).faults ++
              [faultRecord w.requester w.req w.address bad 1 s.cycle (s.die w.die).faultSeq]))) ∧
      (s.arg = .cannotMap k →
        (w.told = false → LeadsTo .dispatcherWriteResume s s) ∧
        (w.told = true → w.completion = false →
          LeadsTo .dispatcherWriteResume s { s with dispWrites := s.dispWrites.eraseIdx k }) ∧
        (w.told = true → w.completion = true → ∀ gr, s.graph? w.graph = some gr → gr.aborted = false → gr.complete = false →
          ∃ u gr', LeadsTo .dispatcherWriteResume s u ∧ u.graph? w.graph = some gr' ∧ gr'.aborted = true))

/-- R25, R196, R365 to R368, R371, R375, R379 to R381: firmware resumes a served trap at EPC, fetches a line with a parity error again once,
reflects a trap to TVEC with a frame and returns from it by `ecall 1`, or kills the task and aborts its graph; it asks for a pre-emption
and, at the deadline, sets the task aside with its full image, just before an instruction or at an element boundary within it; a core-state
error reruns a restartable task or fails its node; an error of a service core and an expired watchdog are fatal. Which instructions stop
within is said in notes/assumptions/90.md, and what an image keeps of the scratchpad in notes/assumptions/75.md. How long a fetched line is
remembered is notes/assumptions/64.md, and that a core-state error waits for commands is notes/assumptions/53.md. -/
def Obligations.FirmwareSteps : Prop :=
  ∀ s : State,
    let h := s.hart
    let c := h.csr
    let trapped (code : Nat) : Prop :=
      h.firmware = true ∧ h.run = .running ∧ c.ecause.toNat / 2 ^ 9 % 4 = 0 ∧ c.ecause.toNat % 256 = code
    let lands (pc : Word) : Prop := isPc pc = true ∧ s.asTask.refusesTarget pc = false
    let returns : Prop := ∃ u, LeadsTo .trapReflect s u ∧ u.hart.firmware = false ∧ u.hart.pc = c.epc ∧
      u.hart.sequential = c.ecause.getLsbD 11 ∧ u.hart.waiting = none ∧ u.hart.csr = c ∧ u.hart.getM 7 = h.getM 7 ∧
      Unchanged [.privilege] s u
    let killed (i : Instr) : Prop := ∃ u, LeadsTo i s u ∧
      ((∀ r, h.task.ref = some r → ∀ g ∈ s.parked, g.run = .running → ∀ q, g.task.ref = some q → q.graph ≠ r.graph) →
        u.hart.run = .idle ∧ u.hart.place = h.place) ∧
      ∀ r gr, h.task.ref = some r → s.graph? r.graph = some gr → gr.aborted = false → gr.complete = false →
        ∃ gr', u.graph? r.graph = some gr' ∧ gr'.aborted = true
    let f := h.getX 2 - 64
    (∀ code ∈ [0x01, 0x02, 0x05, 0x08, 0x09, 0x0A, 0x13, 0x14, 0x17, 0x1C], trapped code →
      ((c.tvec = 0 ∨ c.ecause.getLsbD 8 = true) → killed .trapReflect) ∧
      (c.tvec ≠ 0 → c.ecause.getLsbD 8 = false → ¬ lands c.tvec → killed .trapReflect) ∧
      (c.tvec ≠ 0 → c.ecause.getLsbD 8 = false → lands c.tvec → ∀ v,
        s.putFrame h f (dwords [c.epc, c.ecause, c.eaddr, c.einfo, h.getX 2, h.getX 4, 0, 0]) = .ok v →
        ∃ u, LeadsTo .trapReflect s u ∧ SameMemory u v ∧ u.hart.pc = c.tvec ∧ u.hart.firmware = false ∧ u.hart.csr.elx = 0 ∧
          u.hart.getM 7 = 0 ∧ ∀ r, u.hart.getX r = if r = 2 ∨ r = 4 then f else h.getX r)) ∧
    ((trapped 0x1A ∨ trapped 0x1B) → killed .trapReflect) ∧
    (trapped 0x04 →
      let e := s.dropFetched
      let d : State := { e with hart := { e.hart with refetched := c.epc :: h.refetched } }
      (h.refetched.contains c.epc = true → killed .trapReflect) ∧
      (h.refetched.contains c.epc = false → isPc c.epc = true → (c.ecause.getLsbD 11 = true ∨ d.asTask.refusesTarget c.epc = false) →
        LeadsTo .trapReflect s { d with hart := { d.hart.returned with arrived := d.cycle } })) ∧
    (trapped 0x07 → s.nowResident = true → isPc c.epc = true → (c.ecause.getLsbD 11 = true ∨ lands c.epc) → returns) ∧
    (trapped 0x10 → c.tvec = 0 →
      let read := match s.agentTarget (h.taskReq false) c.eaddr with
        | some t => s.touch (h.taskReq false) t
        | none => s
      (s.promisedFull = false → LeadsTo .trapReflect s read) ∧
      (s.promisedFull = true → isPc c.epc = true → (c.ecause.getLsbD 11 = true ∨ read.asTask.refusesTarget c.epc = false) →
        LeadsTo .trapReflect s { read with hart := { read.hart.returned with arrived := read.cycle } })) ∧
    (trapped 0x16 → c.einfo = 1 → ∀ t v, s.getFrame h (h.getX 4) = .ok (t, v) →
      let epc : Word := BitVec.ofNat 64 v
      let sx2 : Word := BitVec.ofNat 64 (v / 2 ^ 256)
      let back : Prop := isPc epc = true ∧ t.asTask.refusesTarget epc = false
      ((¬ back ∨ sx2.toNat % 16 ≠ 0) → killed .trapReflect) ∧
      (back → sx2.toNat % 16 = 0 → ∃ u, LeadsTo .trapReflect s u ∧ u.hart.pc = epc ∧ u.hart.firmware = false ∧
        u.hart.csr.elx = 0 ∧ u.hart.getM 7 = 0 ∧ (∀ k, k ≠ 7 → u.hart.getM k = h.getM k) ∧
        (∀ r, u.hart.getX r = if r = 2 then sx2 else if r = 4 then BitVec.ofNat 64 (v / 2 ^ 320) else h.getX r) ∧
        SameMemory u t ∧ Unchanged [.x, .decoupling, .privilege, .elx, .m, .memory, .poison, .stores, .tags, .tlb] s u)) ∧
    (h.run = .running → killed .taskKill) ∧
    (s.arg = .request true →
      (h.run = .running → h.task.savep ≠ 0 → c.preempt.getLsbD 0 = false → ∃ u, LeadsTo .preemptRequest s u ∧ u.hart.csr.preempt = 1 ∧
        u.hart.deadline = some (s.cycle + (s.die h.place.die).deadline) ∧ u.hart.pc = h.pc ∧ u.hart.x = h.x) ∧
      (h.task.savep = 0 → LeadsTo .preemptRequest s s)) ∧
    (s.arg = .request false → ∃ u, LeadsTo .preemptRequest s u ∧ u.hart = { h with csr := { c with preempt := 0 }, deadline := none }) ∧
    (∀ a within, s.arg = .fullImage a within →
      (s.mayStop = false → LeadsTo .forcedStop s s) ∧
      ∀ t, s.mayStop = true → a.toNat % 128 = 0 → (if within = 0 then some s else s.performWithin within) = some t →
        (within ≠ 0 → t.hart.pc = h.pc ∧ t.hart.firmware = false ∧ t.hart.csr.elx ≠ 0) ∧
        ∀ v w, let g := t.hart
          (t.release g.place 4).putImage g a (g.fullImage a t.cycle) = .ok v →
          v.putImage g g.imageAddr (g.compactImage 2 a t.cycle) = .ok w →
          ∃ u, LeadsTo .forcedStop s u ∧ SameMemory u (w.release g.place 4) ∧ u.hart.run = .idle ∧ u.hart.place = g.place ∧
            ∀ r n, g.task.ref = some r → t.node? r.graph r.node = some n →
              ∃ n', u.node? r.graph r.node = some n' ∧ n'.ended = n.ended ∧
                n'.saved = n.saved ++ [{ tile := r.tile, die := g.place.die, acted := g.acted, views := g.views }] ∧
                let kept := (w.release g.place 4).keepBlocks g r.tile
                n'.kept = (n.kept.map fun b => match kept.find? (·.contents == b.contents) with
                  | some x => { b with bytes := x.bytes, poison := x.poison }
                  | none => b) ++ kept) ∧
    (s.arg = .none → h.run = .running → h.task.gang = none → s.commandPending h.place = false → ∀ r n, h.task.ref = some r →
      s.node? r.graph r.node = some n →
      let stopped := s.stopMember r
      let again : Prop := n.record.restartable = true ∧ n.reruns.count r.tile < 2 ∧
        ∀ g, stopped.tileHart r = some g → g.acted = false
      (again → ∃ u, LeadsTo .coreStateError s u ∧ u.hart.run = .idle ∧
        u.node? r.graph r.node = some { n with reruns := r.tile :: n.reruns, again := n.again ++ [r.tile] }) ∧
      (¬ again → ∀ gr, s.graph? r.graph = some gr → gr.aborted = false → gr.complete = false →
        ∃ u gr', LeadsTo .coreStateError s u ∧ u.graph? r.graph = some gr' ∧ gr'.aborted = true)) ∧
    ∀ die core, s.arg = .core die core → ∀ p ∈ [(Instr.coreStateError, Fatal.serviceCore), (.watchdogExpiry, .watchdog)],
      LeadsTo p.1 s (if die < 4 ∧ core < 2 then { s with fatal := some { why := p.2, place := { die, core } } } else s)

/-- R5, R6, R22, R193, R217, R218, R324, R388 to R391, R397, R402, R406, R408: a register write holds its value; boot runs an image only
when both signatures verify; a code object is loaded whole or refused; monitors, throttles, windows of power and of refresh; what the host
reads and writes through its windows, and what a peer may do over a port. A write of ABASE or AGRAN that would break R324 does nothing (the
model's choice, notes/assumptions/78.md). Which port leads to which peer, and where a window leads, are notes/assumptions/48.md and 92.md;
what a host reads where it spans pages and of a dump notes/assumptions/57.md and 91.md; the certificates and the monitor interface
notes/assumptions/94.md and 98.md; the tables of an object notes/assumptions/24.md and 81.md; the algorithms of the signatures
notes/assumptions/113.md. -/
def Obligations.DeviceSteps : Prop :=
  ∀ s : State,
    (∀ v : Word,
      (s.arg = .register .ptbase v → LeadsTo .registerWrite s { s with ptbase := v.toNat % 2 ^ 52 }) ∧
      (s.arg = .register .ptlog2 v → LeadsTo .registerWrite s { s with ptlog2 := v.toNat }) ∧
      (∀ fn q, s.arg = .register (.lqaddr fn q) v → (16 ≤ fn ∨ 16 ≤ q → LeadsTo .registerWrite s s) ∧
        (fn < 16 → q < 16 → ∃ u, LeadsTo .registerWrite s u ∧
        u.queues.get {} (queueKey fn q) = { s.queues.get {} (queueKey fn q) with gaddr := v } ∧
        ∀ k, k ≠ queueKey fn q → u.queues.get {} k = s.queues.get {} k)) ∧
      (∀ die < 4, ∀ p ∈ ([(.deadline die, fun d => { d with deadline := v }), (.budgetUnits die, fun d => { d with budgetUnits := v }),
          (.budgetThreshold die, fun d => { d with threshold := some v })] : List (DevReg × (Die → Die))),
        s.arg = .register p.1 v → ∃ u, LeadsTo .registerWrite s u ∧ u.die die = p.2 (s.die die) ∧ ∀ k, k ≠ die → u.die k = s.die k) ∧
      (∀ asid, ∀ p ∈ ([(.abase asid, fun a => { a with base := v }), (.agran asid, fun a => { a with granules := v.toNat })] :
          List (DevReg × (Arena → Arena))),
        s.arg = .register p.1 v →
        let a := p.2 ((s.arena asid).getD { asid, base := 0, granules := 0 })
        let new := a.granulesBeyond ((s.arena asid).getD { asid, base := 0, granules := 0 })
        let apart (x : Nat) : Prop := x + 65544 ≤ s.ptbase ∨ s.ptbase + 128 * 2 ^ s.ptlog2 + 8 ≤ x
        (s.arenaOk a = true → a.base.toNat % 2 ^ 16 = 0 ∧ a.granules ≤ 2 ^ 24 ∧
          ∃ u, LeadsTo .registerWrite s u ∧ u.arena asid = some a ∧ (∀ b, b ≠ asid → u.arena b = s.arena b) ∧
            (s.pend = [] → s.ptbase + 128 * 2 ^ s.ptlog2 ≤ 2 ^ 52 → (∀ va ∈ new, ∀ x, s.walk outside.die asid va = .hit x → apart x.pa) →
              ∀ va ∈ new, ∀ x, s.walk outside.die asid va = .hit x → ∀ n < 65536, u.mem.get 0 (x.pa + n) = 0)) ∧
        (s.arenaOk a = false → LeadsTo .registerWrite s s)) ∧
      (∀ die < 4, ∀ k < 7, s.arg = .register (.sensorLimit die k) v → ∃ u, LeadsTo .registerWrite s u ∧ (∀ d, d ≠ die → u.die d = s.die d) ∧
        (u.die die).limits.getD k 0 = min ((s.die die).limits.getD k 0) v.toNat ∧
        ∀ j, j ≠ k → (u.die die).limits.getD j 0 = (s.die die).limits.getD j 0) ∧
      (∀ window peer, s.arg = .register (.route window peer) v → ∃ u, LeadsTo .registerWrite s u ∧
        ∀ pa, 2 ^ 51 ≤ pa → pa < 2 ^ 52 → (pa - 2 ^ 51) / 2 ^ 36 = window →
          u.routed pa = match peer with
            | some k => 2 ^ 53 + k * 2 ^ 52 + (v.toNat + pa % 2 ^ 36) % 2 ^ 52
            | none => pa) ∧
      (∀ asid, s.arg = .register (.context asid) v →
        let busy : Prop := (∃ h ∈ s.harts, h.run = .running ∧ h.asid = asid) ∨ (∃ c ∈ s.cmds, c.asid = asid) ∨
          (∃ w ∈ s.dispWrites, w.asid = asid) ∨ (∃ g ∈ s.graphs, g.asid = asid ∧ g.aborted = false ∧ g.complete = false) ∨
          (∃ d < 4, ∃ l ∈ (s.die d).launch, l.1 = asid) ∨ ∃ q ∈ s.queues, ∃ l ∈ q.2.queue, l.1 = asid
        (busy → LeadsTo .registerWrite s s) ∧
        (¬ busy → ∃ u, LeadsTo .registerWrite s u ∧
          (∀ g ∈ u.graphs, g.asid ≠ asid) ∧ (∀ b ∈ u.barriers, b.asid ≠ asid) ∧ (∀ b ∈ u.sets, b.asid ≠ asid) ∧ u.arena asid = none ∧ u.exportSlots asid = [] ∧ u.symbolsOf asid = [] ∧ (∀ t ∈ u.tags, t.2.owner ≠ some asid) ∧
          ∀ die < 4, (u.die die).storeOwner ≠ some asid ∧
            ((s.die die).storeOwner = some asid → ∀ n < 2 ^ 32, u.mem.get 0 (weightAddr die n) = 0)))) ∧
    (∀ image ed ml entry dumps, s.arg = .boot image ed ml entry dumps →
      LeadsTo .boot s (if ed25519Verify (toBytes 32 Config.romEd25519.toNat) image (toBytes 64 ed.toNat) = true ∧
          mlDsaVerify (toBytes 1952 Config.romMlDsa.toNat) image (toBytes 3309 ml.toNat) = true then
        { s with trapEntry := entry, bootFailed := false
                 dumps := if ∀ base ∈ dumps, base + 2 ^ 24 ≤ 2 ^ 39 then dumps else [] } else { s with bootFailed := true })) ∧
    (∀ asid (file : List Byte) (bases : List (Word × Nat)), s.arg = .object asid file bases →
      let o := parseObject file
      ((o.magic ≠ 0x31434F41 ∨ o.version ≠ 1 ∨ o.mmrev = 0 ∨ 2 < o.mmrev ∨ o.reserved ≠ 0 ∨ (∃ n, (0xE0, 0x02, n) ∈ o.retired) ∨
          (∃ k, o.features.testBit k = true ∧ 6 ≤ k)) → LeadsTo .codeObjectLoad s s) ∧
      (∀ u, s.loadObject asid file bases = some u → LeadsTo .codeObjectLoad s u) ∧
      (s.loadObject asid file bases = none → LeadsTo .codeObjectLoad s s) ∧
      (
        let le (at_ n : Nat) : Nat := ofBytes ((file.drop at_).take n)
        let count (t : Nat) : Nat := le (0x14 + 8 * t) 4
        let entry (t size k : Nat) : Nat := le (0x10 + 8 * t) 4 + size * k
        o.magic = le 0 4 ∧ o.version = le 4 2 ∧ o.mmrev = le 6 1 % 4 ∧ o.features = le 8 8 ∧
        o.sections.length = count 0 ∧ o.symbols.length = count 1 ∧ o.relocs.length = count 2 ∧ o.tasks.length = count 3 ∧
        o.retired.length = count 4 ∧
        (∀ k x, o.sections[k]? = some x → let e := entry 0 32 k
          x.kind = le e 1 ∧ x.align = le (e + 1) 1 ∧ x.bytes = (file.drop (le (e + 16) 8)).take (le (e + 8) 8)) ∧
        (∀ k x, o.symbols[k]? = some x → let e := entry 1 64 k
          x.sec = le (e + 4) 2 ∧ x.bind = le (e + 6) 1 ∧ x.value = le (e + 8) 8 ∧ x.digest = le (e + 16) 32) ∧
        (∀ k x, o.relocs[k]? = some x → let e := entry 2 24 k
          x.sec = le e 2 ∧ x.kind = le (e + 2) 1 ∧ x.sym = le (e + 4) 4 ∧ x.place = le (e + 8) 8 ∧
          x.addend % (2 ^ 64 : Int) = (le (e + 16) 8 : Nat)) ∧
        (∀ k x, o.tasks[k]? = some x → let e := entry 3 32 k
          x.sym = le e 4 ∧ x.stack = 16 * le (e + 4) 2 ∧ x.attributes = BitVec.ofNat 64 (le (e + 8) 8)) ∧
        ∀ k x, o.retired[k]? = some x → let e := entry 4 8 k
          x = (le e 1, le (e + 1) 1, le (e + 4) 4)) ∧
      ∀ u symbols (images : List (List Byte)), s.loadObject asid file bases = some u →
        mergeSymbols bases o o.symbols (s.symbolsOf asid) = some symbols →
        o.relocs.foldlM (applyReloc bases o symbols) (o.sections.map (·.bytes)) = some images →
        u.symbolsOf asid = symbols ∧ u.objects = (asid, o.loaded bases symbols) :: s.objects ∧
        ((∀ (j k f g : Nat) (im im' : List Byte), j ≠ k → images[j]? = some im → images[k]? = some im' → (bases[j]?).map (·.2) = some f →
            (bases[k]?).map (·.2) = some g → f * 65536 + im.length ≤ g * 65536 ∨ g * 65536 + im'.length ≤ f * 65536) →
          s.ptbase + 128 * 2 ^ s.ptlog2 ≤ 2 ^ 52 →
          (∀ (k f : Nat) (im : List Byte), images[k]? = some im → (bases[k]?).map (·.2) = some f →
            f * 65536 + im.length ≤ s.ptbase ∨ s.ptbase + 128 * 2 ^ s.ptlog2 ≤ f * 65536) →
          ∀ (k : Nat) (x : ObjSection) (base : Word) (frame : Nat) (im : List Byte), o.sections[k]? = some x → bases[k]? = some (base, frame) → images[k]? = some im →
            (∀ j < im.length, u.mem.get 0 (frame * 65536 + j) = im.getD j 0) ∧
            ∀ j, 65536 * j < im.length → ∃ b n, n < 8 ∧ u.entryAt b n =
              pageEntry asid (base.toNat / 65536 + j) (frame + j) (x.kind == 2) (x.kind == 1))) ∧
    (∀ die m (r : Int), s.arg = .monitor die m r →
      let d := s.die die
      let present : Prop := die < 4 ∧ match m with | .temperature core => core < 40 | .voltage _ => True | .oscillator quadrant => quadrant < 4
      let limit (m : Sensor) (k : Nat) : Option Nat := match m with
        | .temperature _ => if k < 3 then some (d.limits.getD k 0) else none
        | .voltage _ => if k < 3 then some (d.limits.getD (3 + k) 0) else none
        | .oscillator _ => if k = 0 then some (d.limits.getD 6 0) else none
      let reaches (m : Sensor) (r : Int) (k : Nat) : Prop := ∃ l, limit m k = some l ∧
        (l : Int) ≤ match m with | .temperature _ => r | _ => (r.natAbs : Int)
      let readings := (m, r) :: d.readings.filter (·.1 != m)
      let before (k : Nat) : Prop := ∃ r', (d.readings.find? (·.1 == m)).map (·.2) = some r' ∧ reaches m r' k
      (¬ present → LeadsTo .monitorEvent s s) ∧
      (present → ∃ u, LeadsTo .monitorEvent s u ∧ (∀ k, k ≠ die → u.die k = s.die k) ∧ (u.die die).readings = readings ∧
        ((u.die die).events = d.events + 1 ∨ (u.die die).events = d.events) ∧
        ((u.die die).events = d.events + 1 ↔ ∃ k < 3, reaches m r k ∧ ¬ before k) ∧
        ((∃ p ∈ readings, reaches p.1 p.2 1) → (u.die die).throttle = max 1 d.throttle) ∧
        ((∀ p ∈ readings, ¬ reaches p.1 p.2 1) → (u.die die).throttle = 0) ∧
        (reaches m r 2 → u.fatal = some { why := .shutdown, place := { die } }) ∧ (¬ reaches m r 2 → u.fatal = s.fatal))) ∧
    (∀ die < 4, s.arg = .index die →
      (∃ u, LeadsTo .throttleEscalate s u ∧ (∀ k, k ≠ die → u.die k = s.die k) ∧
        u.die die = { s.die die with throttle := if (s.die die).throttle = 1 then 2 else (s.die die).throttle }) ∧
      ∃ u, LeadsTo .budgetWindow s u ∧ (∀ k, k ≠ die → u.die k = s.die k) ∧ u.die die = { s.die die with charged := 0 }) ∧
    (s.cycle.toNat + 12960 < 2 ^ 64 →
      (∃ u, LeadsTo .refreshWindowStart s u ∧ u.cycle.toNat % 10800 = 0 ∧ s.cycle.toNat < u.cycle.toNat ∧
        u.cycle.toNat ≤ s.cycle.toNat + 10800 ∧ Unchanged [.cycle, .fwEvent, .parked] s u) ∧
      ∃ u, LeadsTo .refreshWindowEnd s u ∧ u.cycle.toNat % 10800 = 2160 ∧ s.cycle.toNat < u.cycle.toNat ∧
        u.cycle.toNat ≤ s.cycle.toNat + 12960 ∧ Unchanged [.cycle, .fwEvent, .parked] s u) ∧
    (∀ fn ofs n, fn < 16 → s.arg = .hostRead 2 fn ofs n → 1 ≤ n → ofs % 2 ^ 16 + n ≤ 2 ^ 16 → ofs + n ≤ 2 ^ 36 →
      (∀ x, s.bar2Page fn ofs false = some x → (x.entry.migrating = false ∨ ofs % 128 + n ≤ 128) → ∃ u b, LeadsTo .hostRead s u ∧ u.hostData = some b ∧ b.length = n ∧
        ((s.outsideTouch x false).poisonIn outside x.pa x.pa n = false → b = toBytes n ((s.outsideTouch x false).memNat x.pa n)) ∧
        u.hostErrors = s.hostErrors ∧ SameMemory u (s.outsideTouch x false)) ∧
      (s.bar2Page fn ofs false = none → LeadsTo .hostRead s
        { s with hostData := none, hostErrors := s.hostErrors.set 0 fn (s.hostErrors.get 0 fn + 1) })) ∧
    (∀ ofs n, s.arg = .hostRead 4 0 ofs n → 1 ≤ n → ofs % 2 ^ 16 + n ≤ 2 ^ 16 → ofs + n ≤ 2 ^ 26 →
      (∀ base, s.dumps[ofs / 2 ^ 24]? = some base → s.poisonIn outside (base + ofs % 2 ^ 24) (base + ofs % 2 ^ 24) n = false →
        LeadsTo .hostRead s { s with hostData := some (toBytes n (s.memNat (base + ofs % 2 ^ 24) n)) }) ∧
      (s.dumps[ofs / 2 ^ 24]? = none → LeadsTo .hostRead s { s with hostData := none })) ∧
    (∀ k, s.arg = .certificate k → LeadsTo .hostRead s { s with hostData := some (Config.certificate k) }) ∧
    (∀ item, s.arg = .monitorRead item → LeadsTo .hostRead s { s with hostData := some (match item with
      | .reading die m => toBytes 8 (BitVec.ofInt 64 ((((s.die die).readings.find? (·.1 == m)).map (·.2)).getD 0)).toNat
      | .counters p =>
        let c := ((s.harts.find? fun h => h.place == p && h.run == .running).map (·.counters)).getD (s.slotCounters.get {} (Place.key p))
        toBytes 4 c.decloss.toNat ++ toBytes 4 c.slipstall.toNat ++ toBytes 4 c.ldqwait.toNat ++ toBytes 4 c.strwait.toNat
      | .latent die => toBytes 4 (s.die die).latent.toNat
      | .latentEntry die k => toBytes 64 ((s.die die).latentLog.getD k 0).toNat
      | .bootStatus => [if s.bootFailed then 1 else 0]) }) ∧
    (∀ bar fn ofs n, s.arg = .hostRead bar fn ofs n → barSize fn bar < ofs + n → LeadsTo .hostRead s { s with hostData := none }) ∧
    (∀ fn q, fn < 16 → q < 16 → s.arg = .hostRead 0 fn (0x1000 + 16 * q) 8 →
      LeadsTo .hostRead s { s with hostData := some (toBytes 8 (s.queues.get {} (queueKey fn q)).gaddr.toNat) }) ∧
    (∀ fn ofs bytes, fn < 16 → s.arg = .hostWrite fn ofs bytes → bytes ≠ [] → ofs % 2 ^ 16 + bytes.length ≤ 2 ^ 16 → ofs + bytes.length ≤ 2 ^ 36 →
      (∀ x, s.bar2Page fn ofs true = some x → (x.entry.migrating = false ∨ ofs % 128 + bytes.length ≤ 128) →
        let v := s.outsideTouch x true
        ∃ u, LeadsTo .hostWrite s u ∧ (∀ a, (a < x.pa ∨ x.pa + bytes.length ≤ a) → u.mem.get 0 a = v.mem.get 0 a) ∧
          ((∀ k < bytes.length, s.loses (x.pa + k) = false) → ∀ k < bytes.length, u.mem.get 0 (x.pa + k) = bytes.getD k 0)) ∧
      (∀ x lines, s.bar2Page fn ofs true = some x → x.entry.migrating = true → s.bar2Lines fn true (ofs, bytes.length) = some lines →
        (∀ y ∈ lines, s.bar2Page fn y.2.1 true = some y.1 ∧ ofs ≤ y.2.1 ∧ y.2.1 + y.2.2 ≤ ofs + bytes.length ∧ y.2.1 % 128 + y.2.2 ≤ 128) ∧
        LeadsTo .hostWrite s (lines.foldl (fun v y =>
          (v.outsideTouch y.1 true).outsideWrite y.1.pa ((bytes.drop (y.2.1 - ofs)).take y.2.2)) s)) ∧
      (s.bar2Page fn ofs true = none →
        LeadsTo .hostWrite s { s with hostErrors := s.hostErrors.set 0 fn (s.hostErrors.get 0 fn + 1) })) ∧
    (∀ k, k < 12 → (s.port k).down = false →
      let p := s.port k
      let others (u : State) : Prop := ∀ j, j ≠ k → u.port j = s.port j
      (∀ flit seq ok, s.arg = .flit k flit seq ok → flit.length = 256 → p.failed < 17 →
        (seq ≠ p.expected → LeadsTo .brynedFlit s s) ∧
        (seq = p.expected → ∃ u, LeadsTo .brynedFlit s u ∧ others u ∧
          u.port k = if ok then { p with received := p.received ++ [flitPayload flit], expected := p.expected + 1, failed := 0 }
            else { p with failed := p.failed + 1 })) ∧
      (s.arg = .index k → 17 ≤ p.failed → ∃ u, LeadsTo .portDown s u ∧ others u ∧ u.port k = { p with down := true } ∧
        u.pend = (s.pend.filter fun w => peerOf w.address != some k) ∧ ∀ a, peerOf a = some k → u.unreachable a = true) ∧
      (s.arg = .index k → p.failed < 17 → LeadsTo .portDown s s) ∧
      (∀ pa n, s.arg = .peer k (.read pa n) →
        (s.peerMayAll pa n = true → s.poisonIn outside pa pa n = false →
          LeadsTo .brynedRequest s { s with peerData := some (toBytes n (s.memNat pa n)) }) ∧
        (s.peerMayAll pa n = false → ∃ u, LeadsTo .brynedRequest s u ∧ others u ∧ u.port k = { p with errors := p.errors + 1 } ∧
          u.peerData = some (List.replicate n 0xFF) ∧ u.mem = s.mem)) ∧
      (∀ pa wide fn b c, s.arg = .peer k (.atomic pa wide fn b c) →
        let n := if wide then 8 else 4
        let w := 8 * n
        let old := s.memNat pa n
        ((s.peerMayAll pa n = false ∨ pa % n ≠ 0) → ∃ u, LeadsTo .brynedRequest s u ∧ others u ∧
          u.port k = { p with errors := p.errors + 1 } ∧ u.peerData = some (List.replicate n 0xFF) ∧ u.mem = s.mem) ∧
        ∀ op, Amo.ofCode fn = some op → s.peerMayAll pa n = true → pa % n = 0 → s.poisonIn outside pa pa n = false →
          (∀ j < n, s.loses (pa + j) = false) → ∃ u, LeadsTo .brynedRequest s u ∧ u.peerData = some (toBytes n old) ∧
            u.memNat pa n = ((op.apply w old (b % 2 ^ w) (c % 2 ^ w)).1.getD old) % 2 ^ w ∧
            ∀ a, (a < pa ∨ pa + n ≤ a) → u.mem.get 0 a = s.mem.get 0 a) ∧
      ∀ pa bytes, s.arg = .peer k (.write pa bytes) →
        (s.peerMayAll pa bytes.length = true → (∀ j < bytes.length, s.loses (pa + j) = false) → ∃ u, LeadsTo .brynedRequest s u ∧
          (∀ j < bytes.length, u.mem.get 0 (pa + j) = bytes.getD j 0) ∧
          ∀ a, (a < pa ∨ pa + bytes.length ≤ a) → u.mem.get 0 a = s.mem.get 0 a) ∧
        (s.peerMayAll pa bytes.length = false → ∃ u, LeadsTo .brynedRequest s u ∧ others u ∧
          u.port k = { p with errors := p.errors + 1 } ∧ u.mem = s.mem))

/-! The state after reset, a step, and the instruction words (chapters 1 to 3 and 10 to 12). -/

/-- R10, R13, R16, R22, R97, R193, R211, R371, R408: what reset leaves. The values of R13 and R16 are those of a task's start; that memory
reads as zero and that the CSRs without a reset value of their own are zero are the model's choices (notes/assumptions/3.md and 5.md). -/
def Obligations.ResetState : Prop :=
  let s := State.reset
  (∀ r, s.hart.getX r = if r = 2 then 0x00FFFFFFFFF50000 else 0) ∧
  (∀ p ∈ ([(0x001, 0), (0x002, 0), (0x003, 256), (0x004, 0), (0x005, 4), (0x006, 0), (0x007, 0), (0x008, 0), (0x009, 0), (0x00A, 0),
      (0x00B, 0), (0x00C, 0), (0x018, 0), (0x019, 0), (0x01A, 0), (0x01B, 0), (0x01C, 0), (0x01D, 0), (0x021, 0), (0x030, 0), (0x040, 0),
      (0x041, 0), (0x042, 0), (0x043, 0), (0x044, 0), (0x051, 0)] : List (Nat × Word)), s.csr p.1 = some p.2) ∧
  (∀ n, n ∉ [0x000, 0x001, 0x002, 0x003, 0x004, 0x005, 0x006, 0x007, 0x008, 0x009, 0x00A, 0x00B, 0x00C, 0x010, 0x011, 0x012, 0x013,
      0x014, 0x015, 0x018, 0x019, 0x01A, 0x01B, 0x01C, 0x01D, 0x020, 0x021, 0x028, 0x030, 0x040, 0x041, 0x042, 0x043, 0x044, 0x050,
      0x051] → s.csr n = none) ∧
  s.hart.run = .idle ∧ s.parked = [] ∧ s.agenda = [] ∧ s.fatal = none ∧
  (∀ k, (s.queues.get {} k).gaddr = 0 ∧ (s.queues.get {} k).ovf = false ∧ (s.queues.get {} k).queue = []) ∧
  (∀ die, (s.die die).faults = [] ∧ (s.die die).launch = [] ∧ (s.die die).latent = 0 ∧ (s.die die).deadline = 360000 ∧
    (s.die die).threshold = none) ∧
  (∀ die core, ((s.lanes.get {} (coreKey die core)).first = 0)) ∧
  Memory.wf s.mem ∧ (∀ q a, s.byteAt q a = 0) ∧ (∀ k, (s.tags.get {} k).owner = none) ∧ s.tlb = [] ∧ s.cmds = [] ∧ s.graphs = []

/-- R8, R20, R22, R26, R27, R32, R33: a step of a running hart whose line is fetched and whose slot passes the checks runs the instruction
that the slot decodes to; a slot that fails one raises that check's cause with nothing executed, SEQF telling how control arrived. A step
with an event on the agenda is that event. An idle slot, a hart at its forced stop and every hart after a fatal error do nothing; a hart that
has fault records to write writes them (R362, R375, R381), and one at a diagonal instruction waits while its core's engine picks another
hart (R170; notes/assumptions/28.md). R42: NOP is the only word with OPC 0x00 that is an instruction; its SPAR bit is 1,
and it changes the PC alone. -/
def Obligations.StepRunsDecodedInstruction : Prop :=
  ∀ s : State,
    (s.fatal = none → ∀ i arg rest, s.agenda = .event i arg :: rest → i.code = none →
      step s = dumpAfter { s with agenda := rest, arg } (exec i { s with agenda := rest, arg })) ∧
    (s.agenda = [] → (s.fatal ≠ none ∨ s.hart.run = .idle ∨ s.atStop = true) → step s = .next s) ∧
    (s.agenda = [] → s.fatal = none → s.hart.run ≠ .idle → s.atStop = false →
      (∀ f, s.hart.faulting = some f → step s = dumpAfter s (.next (s.writeRecords f))) ∧
      (s.hart.faulting = none → ∀ l, s.fetch s.hart.pc = .line l →
        let pc := s.hart.pc
        let line := pcLine pc
        let k := pc.toNat % 8
        let v := s.keepLine l
        let w := l.data.bits / 2 ^ 480 % 2 ^ 32
        let slot := l.data.bits / 2 ^ (96 * k) % 2 ^ 96
        let ones (v n : Nat) : Nat := (List.range n).countP fun j => v.testBit j
        let parityBit := if w.testBit (9 + k) then 1 else 0
        let raises (c : Cause) (addr info : Word) : Prop := s.hart.firmware = false → ∃ t, step s = .next t ∧
          Enters s t c pc addr info s.hart.sequential ∧ t.hart.csr.elx = s.hart.csr.elx ∧
          Unchanged [.privilege, .csrs, .loop, .memory, .stores, .tlb, .fetched] s t
        let sound : Prop := l.data.poison = [] ∧ ones w 15 % 2 = 0 ∧ w < 2 ^ 15 ∧ (ones slot 96 + parityBit) % 2 = 0
        (∀ j rest, l.data.poison = j :: rest → raises .poisonedData (line + BitVec.ofNat 64 (8 * j)) 0) ∧
        (l.data.poison = [] → ones w 15 % 2 = 1 → raises .lineParity line (BitVec.ofNat 64 (w + 2 ^ 32))) ∧
        (l.data.poison = [] → ones w 15 % 2 = 0 → 2 ^ 15 ≤ w → raises .malformedLine line (BitVec.ofNat 64 w)) ∧
        (l.data.poison = [] → ones w 15 % 2 = 0 → w < 2 ^ 15 → (ones slot 96 + parityBit) % 2 = 1 →
          raises .lineParity line (BitVec.ofNat 64 w)) ∧
        (sound → ∀ e, decode (BitVec.ofNat 96 slot) = .error e → raises .illegalInstruction 0 0) ∧
        (sound → ∀ i, decode (BitVec.ofNat 96 slot) = .ok i → s.behindPick i = true → step s = dumpAfter s (.next (v.waitAt i))) ∧
        (sound → ∀ i, decode (BitVec.ofNat 96 slot) = .ok i → s.behindPick i = false → step s = dumpAfter s (exec i v) ∧
          ∀ t, exec i v = .next t → t.fatal = none → step s = .next t) ∧
        (sound → slot / 2 ^ 88 = 0 → slot ≠ 0x0001_0000_0000_0000_0000_0000 → raises .illegalInstruction 0 0) ∧
        (sound → slot = 0x0001_0000_0000_0000_0000_0000 → parityBit = 1 ∧ step s = dumpAfter s (exec .nop v) ∧
          Completes .nop v [] fun _ => True)))

/-- R36 to R43, R59: slot words of the spec's worked programs and the instructions that they stand for. -/
def Obligations.DecodedWords : Prop :=
  ∀ p ∈ ([
    (0x0001_0000_0000_0000_0000_0000, .nop),
    (0x02C0_1450_0000_0000_0000_0001, .addi { d := 5, a := 5, imm := 1 }),
    (0x21C1_0010_0000_0000_0000_0003, .loopn { a := 1, tslot := 3 }),
    (0x30C3_2450_0000_0000_0000_0000, .ldd { d := 9, a := 5 }),
    (0x30CA_0060_0900_9800_0000_0000, .stw { a := 6, c := 9, ord := 2, scope := 3 }),
    (0x450B_2070_0900_0000_0000_0008, .vtopk { form := 0, d := 8, a := 7, c := 9, imm := 8 }),
    (0x81C0_0000_4201_0000_0000_0000, .dprod { b := 1, c := 2, fl := 1 }),
    (0x82C2_4002_C000_0003_0000_0000, .adrain { d := 16, b := 11, x := 3 }),
    (0x90C3_1051_8702_0266_0000_0000, .vgathb { d := 4, a := 5, b := 6, c := 7, ro := 1, ixw := 2, aux := 0x66 }),
    (0xB0C1_2802_4000_0045_0000_0000, .copycv { d := 10, b := 9, rv := 1, rs := 5 }),
    (0xB2C0_C001_4000_0000_0000_0000, .son { d := 48, b := 5 }),
    (0xB3C1_0041_8900_0100_0000_0000, .bapp { a := 4, b := 6, c := 9, cmod := 2 }),
    (0xC0C2_0004_1100_0000_0000_0000, .vnarrow { b := 16, c := 17 }),
    (0xC9C0_0000_0000_0000_0000_0333, .fence { imm := 0x333 })] : List (SlotWord × Instr)),
    decode p.1 = .ok p.2

/-- R26, R34, R36 to R41: every well-formed instruction has a word, and its word decodes to it. -/
def Obligations.DecodeOfEncode : Prop := ∀ i : Instr, i.WellFormed → ∃ w, encode i = some w ∧ decode w = .ok i

/-- R37, R38, R40, R41, R43: a word that decodes is the word of the instruction that it decodes to: no bit of a word is ignored, and no
instruction has a second word. DFAN, VLD1K and an AGANG of a name other than 0 and 4, which only trap, are one instruction for all their
words. -/
def Obligations.EncodeOfDecode : Prop :=
  ∀ (w : SlotWord) (i : Instr), decode w = .ok i → i.WellFormed ∧ (i ≠ .dfan → i ≠ .vld1k → i ≠ .agangBad → encode i = some w)

/-- R14: every step keeps the canonical form in which the model lists memory (notes/assumptions/5.md), so that equal memories are equal
data. -/
def Obligations.MemoryCanonicalKeptByStep : Prop := ∀ s t : State, Memory.wf s.mem → step s = .next t → Memory.wf t.mem

/-- R5, R8, R20 to R24, R41, R381: the device goes on, after a fatal error too, when the host still reads the dump: no instruction and no
event stops the model, whatever the state and the operands. -/
def Obligations.DeviceNeverStops : Prop :=
  (∀ (i : Instr) (s : State), ∃ t, exec i s = .next t) ∧ ∀ s : State, ∃ t, step s = .next t
end

