-- ==== Sys2Proof/Laws/Dispatch.lean ====
section
/-!
SUPPORT. The arm of each constructor, so that a proof about one instruction unfolds no dispatch.
-/

namespace Sys2Proof.Machine

theorem exec_add (o : GOp) (s : State) : exec (.add o) s = execAdd o s := rfl
theorem exec_sub (o : GOp) (s : State) : exec (.sub o) s = execSub o s := rfl
theorem exec_and (o : GOp) (s : State) : exec (.and o) s = execAnd o s := rfl
theorem exec_or (o : GOp) (s : State) : exec (.or o) s = execOr o s := rfl
theorem exec_xor (o : GOp) (s : State) : exec (.xor o) s = execXor o s := rfl
theorem exec_andn (o : GOp) (s : State) : exec (.andn o) s = execAndn o s := rfl
theorem exec_sll (o : GOp) (s : State) : exec (.sll o) s = execSll o s := rfl
theorem exec_srl (o : GOp) (s : State) : exec (.srl o) s = execSrl o s := rfl
theorem exec_sra (o : GOp) (s : State) : exec (.sra o) s = execSra o s := rfl
theorem exec_rol (o : GOp) (s : State) : exec (.rol o) s = execRol o s := rfl
theorem exec_ror (o : GOp) (s : State) : exec (.ror o) s = execRor o s := rfl
theorem exec_slt (o : GOp) (s : State) : exec (.slt o) s = execSlt o s := rfl
theorem exec_sltu (o : GOp) (s : State) : exec (.sltu o) s = execSltu o s := rfl
theorem exec_min (o : GOp) (s : State) : exec (.min o) s = execMin o s := rfl
theorem exec_max (o : GOp) (s : State) : exec (.max o) s = execMax o s := rfl
theorem exec_minu (o : GOp) (s : State) : exec (.minu o) s = execMinu o s := rfl
theorem exec_maxu (o : GOp) (s : State) : exec (.maxu o) s = execMaxu o s := rfl
theorem exec_mul (o : GOp) (s : State) : exec (.mul o) s = execMul o s := rfl
theorem exec_mulh (o : GOp) (s : State) : exec (.mulh o) s = execMulh o s := rfl
theorem exec_mulhu (o : GOp) (s : State) : exec (.mulhu o) s = execMulhu o s := rfl
theorem exec_div (o : GOp) (s : State) : exec (.div o) s = execDiv o s := rfl
theorem exec_divu (o : GOp) (s : State) : exec (.divu o) s = execDivu o s := rfl
theorem exec_rem (o : GOp) (s : State) : exec (.rem o) s = execRem o s := rfl
theorem exec_remu (o : GOp) (s : State) : exec (.remu o) s = execRemu o s := rfl
theorem exec_clz (o : GOp) (s : State) : exec (.clz o) s = execClz o s := rfl
theorem exec_ctz (o : GOp) (s : State) : exec (.ctz o) s = execCtz o s := rfl
theorem exec_cpop (o : GOp) (s : State) : exec (.cpop o) s = execCpop o s := rfl
theorem exec_sel (o : GOp) (s : State) : exec (.sel o) s = execSel o s := rfl
theorem exec_addi (o : GOp) (s : State) : exec (.addi o) s = execAddi o s := rfl
theorem exec_andi (o : GOp) (s : State) : exec (.andi o) s = execAndi o s := rfl
theorem exec_ori (o : GOp) (s : State) : exec (.ori o) s = execOri o s := rfl
theorem exec_xori (o : GOp) (s : State) : exec (.xori o) s = execXori o s := rfl
theorem exec_slli (o : GOp) (s : State) : exec (.slli o) s = execSlli o s := rfl
theorem exec_srli (o : GOp) (s : State) : exec (.srli o) s = execSrli o s := rfl
theorem exec_srai (o : GOp) (s : State) : exec (.srai o) s = execSrai o s := rfl
theorem exec_slti (o : GOp) (s : State) : exec (.slti o) s = execSlti o s := rfl
theorem exec_sltiu (o : GOp) (s : State) : exec (.sltiu o) s = execSltiu o s := rfl
theorem exec_muli (o : GOp) (s : State) : exec (.muli o) s = execMuli o s := rfl
theorem exec_li (o : GOp) (s : State) : exec (.li o) s = execLi o s := rfl
theorem exec_lihi (o : GOp) (s : State) : exec (.lihi o) s = execLihi o s := rfl
theorem exec_shadd (o : GOp) (s : State) : exec (.shadd o) s = execShadd o s := rfl
theorem exec_bfx (o : GOp) (s : State) : exec (.bfx o) s = execBfx o s := rfl
theorem exec_bfxs (o : GOp) (s : State) : exec (.bfxs o) s = execBfxs o s := rfl
theorem exec_bfi (o : GOp) (s : State) : exec (.bfi o) s = execBfi o s := rfl
theorem exec_beq (o : BOp) (s : State) : exec (.beq o) s = execBeq o s := rfl
theorem exec_bne (o : BOp) (s : State) : exec (.bne o) s = execBne o s := rfl
theorem exec_blt (o : BOp) (s : State) : exec (.blt o) s = execBlt o s := rfl
theorem exec_bge (o : BOp) (s : State) : exec (.bge o) s = execBge o s := rfl
theorem exec_bltu (o : BOp) (s : State) : exec (.bltu o) s = execBltu o s := rfl
theorem exec_bgeu (o : BOp) (s : State) : exec (.bgeu o) s = execBgeu o s := rfl
theorem exec_jal (o : BOp) (s : State) : exec (.jal o) s = execJal o s := rfl
theorem exec_jalr (o : BOp) (s : State) : exec (.jalr o) s = execJalr o s := rfl
theorem exec_loop (o : BOp) (s : State) : exec (.loop o) s = execLoop o s := rfl
theorem exec_loopn (o : BOp) (s : State) : exec (.loopn o) s = execLoopn o s := rfl
theorem exec_ldb (o : MOp) (s : State) : exec (.ldb o) s = execLdb o s := rfl
theorem exec_ldh (o : MOp) (s : State) : exec (.ldh o) s = execLdh o s := rfl
theorem exec_ldw (o : MOp) (s : State) : exec (.ldw o) s = execLdw o s := rfl
theorem exec_ldd (o : MOp) (s : State) : exec (.ldd o) s = execLdd o s := rfl
theorem exec_ldbu (o : MOp) (s : State) : exec (.ldbu o) s = execLdbu o s := rfl
theorem exec_ldhu (o : MOp) (s : State) : exec (.ldhu o) s = execLdhu o s := rfl
theorem exec_ldwu (o : MOp) (s : State) : exec (.ldwu o) s = execLdwu o s := rfl
theorem exec_stb (o : MOp) (s : State) : exec (.stb o) s = execStb o s := rfl
theorem exec_sth (o : MOp) (s : State) : exec (.sth o) s = execSth o s := rfl
theorem exec_stw (o : MOp) (s : State) : exec (.stw o) s = execStw o s := rfl
theorem exec_std (o : MOp) (s : State) : exec (.std o) s = execStd o s := rfl
theorem exec_setvl (o : GOp) (s : State) : exec (.setvl o) s = execSetvl o s := rfl
theorem exec_setvli (o : GOp) (s : State) : exec (.setvli o) s = execSetvli o s := rfl
theorem exec_setvty (o : GOp) (s : State) : exec (.setvty o) s = execSetvty o s := rfl
theorem exec_vadd (o : GOp) (s : State) : exec (.vadd o) s = execVadd o s := rfl
theorem exec_vsub (o : GOp) (s : State) : exec (.vsub o) s = execVsub o s := rfl
theorem exec_vrsub (o : GOp) (s : State) : exec (.vrsub o) s = execVrsub o s := rfl
theorem exec_vmul (o : GOp) (s : State) : exec (.vmul o) s = execVmul o s := rfl
theorem exec_vmulh (o : GOp) (s : State) : exec (.vmulh o) s = execVmulh o s := rfl
theorem exec_vmulhu (o : GOp) (s : State) : exec (.vmulhu o) s = execVmulhu o s := rfl
theorem exec_vmin (o : GOp) (s : State) : exec (.vmin o) s = execVmin o s := rfl
theorem exec_vmax (o : GOp) (s : State) : exec (.vmax o) s = execVmax o s := rfl
theorem exec_vminu (o : GOp) (s : State) : exec (.vminu o) s = execVminu o s := rfl
theorem exec_vmaxu (o : GOp) (s : State) : exec (.vmaxu o) s = execVmaxu o s := rfl
theorem exec_vand (o : GOp) (s : State) : exec (.vand o) s = execVand o s := rfl
theorem exec_vor (o : GOp) (s : State) : exec (.vor o) s = execVor o s := rfl
theorem exec_vxor (o : GOp) (s : State) : exec (.vxor o) s = execVxor o s := rfl
theorem exec_vsll (o : GOp) (s : State) : exec (.vsll o) s = execVsll o s := rfl
theorem exec_vsrl (o : GOp) (s : State) : exec (.vsrl o) s = execVsrl o s := rfl
theorem exec_vsra (o : GOp) (s : State) : exec (.vsra o) s = execVsra o s := rfl
theorem exec_vsadd (o : GOp) (s : State) : exec (.vsadd o) s = execVsadd o s := rfl
theorem exec_vssub (o : GOp) (s : State) : exec (.vssub o) s = execVssub o s := rfl
theorem exec_vsaddu (o : GOp) (s : State) : exec (.vsaddu o) s = execVsaddu o s := rfl
theorem exec_vssubu (o : GOp) (s : State) : exec (.vssubu o) s = execVssubu o s := rfl
theorem exec_vmacc (o : GOp) (s : State) : exec (.vmacc o) s = execVmacc o s := rfl
theorem exec_vdiv (o : GOp) (s : State) : exec (.vdiv o) s = execVdiv o s := rfl
theorem exec_vdivu (o : GOp) (s : State) : exec (.vdivu o) s = execVdivu o s := rfl
theorem exec_vrem (o : GOp) (s : State) : exec (.vrem o) s = execVrem o s := rfl
theorem exec_vremu (o : GOp) (s : State) : exec (.vremu o) s = execVremu o s := rfl
theorem exec_vcmpeq (o : GOp) (s : State) : exec (.vcmpeq o) s = execVcmpeq o s := rfl
theorem exec_vcmpne (o : GOp) (s : State) : exec (.vcmpne o) s = execVcmpne o s := rfl
theorem exec_vcmplt (o : GOp) (s : State) : exec (.vcmplt o) s = execVcmplt o s := rfl
theorem exec_vcmpltu (o : GOp) (s : State) : exec (.vcmpltu o) s = execVcmpltu o s := rfl
theorem exec_vcmple (o : GOp) (s : State) : exec (.vcmple o) s = execVcmple o s := rfl
theorem exec_vcmpleu (o : GOp) (s : State) : exec (.vcmpleu o) s = execVcmpleu o s := rfl
theorem exec_vcmpgt (o : GOp) (s : State) : exec (.vcmpgt o) s = execVcmpgt o s := rfl
theorem exec_vcmpgtu (o : GOp) (s : State) : exec (.vcmpgtu o) s = execVcmpgtu o s := rfl
theorem exec_vfcmpeq (o : GOp) (s : State) : exec (.vfcmpeq o) s = execVfcmpeq o s := rfl
theorem exec_vfcmplt (o : GOp) (s : State) : exec (.vfcmplt o) s = execVfcmplt o s := rfl
theorem exec_vfcmple (o : GOp) (s : State) : exec (.vfcmple o) s = execVfcmple o s := rfl
theorem exec_vfcmpun (o : GOp) (s : State) : exec (.vfcmpun o) s = execVfcmpun o s := rfl
theorem exec_vfadd (o : GOp) (s : State) : exec (.vfadd o) s = execVfadd o s := rfl
theorem exec_vfsub (o : GOp) (s : State) : exec (.vfsub o) s = execVfsub o s := rfl
theorem exec_vfmul (o : GOp) (s : State) : exec (.vfmul o) s = execVfmul o s := rfl
theorem exec_vfdiv (o : GOp) (s : State) : exec (.vfdiv o) s = execVfdiv o s := rfl
theorem exec_vfsqrt (o : GOp) (s : State) : exec (.vfsqrt o) s = execVfsqrt o s := rfl
theorem exec_vfmin (o : GOp) (s : State) : exec (.vfmin o) s = execVfmin o s := rfl
theorem exec_vfmax (o : GOp) (s : State) : exec (.vfmax o) s = execVfmax o s := rfl
theorem exec_vfma (o : GOp) (s : State) : exec (.vfma o) s = execVfma o s := rfl
theorem exec_vfms (o : GOp) (s : State) : exec (.vfms o) s = execVfms o s := rfl
theorem exec_vfnma (o : GOp) (s : State) : exec (.vfnma o) s = execVfnma o s := rfl
theorem exec_vfabs (o : GOp) (s : State) : exec (.vfabs o) s = execVfabs o s := rfl
theorem exec_vfneg (o : GOp) (s : State) : exec (.vfneg o) s = execVfneg o s := rfl
theorem exec_vfsgnj (o : GOp) (s : State) : exec (.vfsgnj o) s = execVfsgnj o s := rfl
theorem exec_vfexp2 (o : GOp) (s : State) : exec (.vfexp2 o) s = execVfexp2 o s := rfl
theorem exec_vfclass (o : GOp) (s : State) : exec (.vfclass o) s = execVfclass o s := rfl
theorem exec_vcvt (o : GOp) (s : State) : exec (.vcvt o) s = execVcvt o s := rfl
theorem exec_vcvtbfp (o : GOp) (s : State) : exec (.vcvtbfp o) s = execVcvtbfp o s := rfl
theorem exec_vcvtfbp (o : GOp) (s : State) : exec (.vcvtfbp o) s = execVcvtfbp o s := rfl
theorem exec_vredsumO (o : GOp) (s : State) : exec (.vredsumO o) s = execVredsumO o s := rfl
theorem exec_vredsumU (o : GOp) (s : State) : exec (.vredsumU o) s = execVredsumU o s := rfl
theorem exec_vredsumi (o : GOp) (s : State) : exec (.vredsumi o) s = execVredsumi o s := rfl
theorem exec_vredmax (o : GOp) (s : State) : exec (.vredmax o) s = execVredmax o s := rfl
theorem exec_vredmin (o : GOp) (s : State) : exec (.vredmin o) s = execVredmin o s := rfl
theorem exec_vredand (o : GOp) (s : State) : exec (.vredand o) s = execVredand o s := rfl
theorem exec_vredor (o : GOp) (s : State) : exec (.vredor o) s = execVredor o s := rfl
theorem exec_vredxor (o : GOp) (s : State) : exec (.vredxor o) s = execVredxor o s := rfl
theorem exec_vscanO (o : GOp) (s : State) : exec (.vscanO o) s = execVscanO o s := rfl
theorem exec_vscanU (o : GOp) (s : State) : exec (.vscanU o) s = execVscanU o s := rfl
theorem exec_vscani (o : GOp) (s : State) : exec (.vscani o) s = execVscani o s := rfl
theorem exec_vtopk (o : GOp) (s : State) : exec (.vtopk o) s = execVtopk o s := rfl
theorem exec_vamax (o : GOp) (s : State) : exec (.vamax o) s = execVamax o s := rfl
theorem exec_vmv (o : GOp) (s : State) : exec (.vmv o) s = execVmv o s := rfl
theorem exec_vmvxs (o : GOp) (s : State) : exec (.vmvxs o) s = execVmvxs o s := rfl
theorem exec_vmvsx (o : GOp) (s : State) : exec (.vmvsx o) s = execVmvsx o s := rfl
theorem exec_vbcast (o : GOp) (s : State) : exec (.vbcast o) s = execVbcast o s := rfl
theorem exec_vslup (o : GOp) (s : State) : exec (.vslup o) s = execVslup o s := rfl
theorem exec_vsldn (o : GOp) (s : State) : exec (.vsldn o) s = execVsldn o s := rfl
theorem exec_vperm (o : GOp) (s : State) : exec (.vperm o) s = execVperm o s := rfl
theorem exec_vcompr (o : GOp) (s : State) : exec (.vcompr o) s = execVcompr o s := rfl
theorem exec_viota (o : GOp) (s : State) : exec (.viota o) s = execViota o s := rfl
theorem exec_vid (o : GOp) (s : State) : exec (.vid o) s = execVid o s := rfl
theorem exec_vmerge (o : GOp) (s : State) : exec (.vmerge o) s = execVmerge o s := rfl
theorem exec_vins (o : GOp) (s : State) : exec (.vins o) s = execVins o s := rfl
theorem exec_mand (o : GOp) (s : State) : exec (.mand o) s = execMand o s := rfl
theorem exec_mor (o : GOp) (s : State) : exec (.mor o) s = execMor o s := rfl
theorem exec_mxor (o : GOp) (s : State) : exec (.mxor o) s = execMxor o s := rfl
theorem exec_mnot (o : GOp) (s : State) : exec (.mnot o) s = execMnot o s := rfl
theorem exec_mpopc (o : GOp) (s : State) : exec (.mpopc o) s = execMpopc o s := rfl
theorem exec_mfirst (o : GOp) (s : State) : exec (.mfirst o) s = execMfirst o s := rfl
theorem exec_mset (o : GOp) (s : State) : exec (.mset o) s = execMset o s := rfl
theorem exec_mmv (o : GOp) (s : State) : exec (.mmv o) s = execMmv o s := rfl
theorem exec_eset (o : GOp) (s : State) : exec (.eset o) s = execEset o s := rfl
theorem exec_emv (o : GOp) (s : State) : exec (.emv o) s = execEmv o s := rfl
theorem exec_vld (o : MOp) (s : State) : exec (.vld o) s = execVld o s := rfl
theorem exec_vlds (o : MOp) (s : State) : exec (.vlds o) s = execVlds o s := rfl
theorem exec_vldx (o : MOp) (s : State) : exec (.vldx o) s = execVldx o s := rfl
theorem exec_vgathb (o : MOp) (s : State) : exec (.vgathb o) s = execVgathb o s := rfl
theorem exec_vldr (o : MOp) (s : State) : exec (.vldr o) s = execVldr o s := rfl
theorem exec_vst (o : MOp) (s : State) : exec (.vst o) s = execVst o s := rfl
theorem exec_vsts (o : MOp) (s : State) : exec (.vsts o) s = execVsts o s := rfl
theorem exec_vstx (o : MOp) (s : State) : exec (.vstx o) s = execVstx o s := rfl
theorem exec_eld (o : MOp) (s : State) : exec (.eld o) s = execEld o s := rfl
theorem exec_est (o : MOp) (s : State) : exec (.est o) s = execEst o s := rfl
theorem exec_mld (o : MOp) (s : State) : exec (.mld o) s = execMld o s := rfl
theorem exec_mst (o : MOp) (s : State) : exec (.mst o) s = execMst o s := rfl
theorem exec_bsset (o : GOp) (s : State) : exec (.bsset o) s = execBsset o s := rfl
theorem exec_bsld (o : GOp) (s : State) : exec (.bsld o) s = execBsld o s := rfl
theorem exec_bsst (o : GOp) (s : State) : exec (.bsst o) s = execBsst o s := rfl
theorem exec_dprod (o : GOp) (s : State) : exec (.dprod o) s = execDprod o s := rfl
theorem exec_dcorr (o : GOp) (s : State) : exec (.dcorr o) s = execDcorr o s := rfl
theorem exec_dapply (o : GOp) (s : State) : exec (.dapply o) s = execDapply o s := rfl
theorem exec_azero (o : GOp) (s : State) : exec (.azero o) s = execAzero o s := rfl
theorem exec_adrain (o : GOp) (s : State) : exec (.adrain o) s = execAdrain o s := rfl
theorem exec_adrainm (o : GOp) (s : State) : exec (.adrainm o) s = execAdrainm o s := rfl
theorem exec_aread (o : GOp) (s : State) : exec (.aread o) s = execAread o s := rfl
theorem exec_awrite (o : GOp) (s : State) : exec (.awrite o) s = execAwrite o s := rfl
theorem exec_amoswap (o : MOp) (s : State) : exec (.amoswap o) s = execAmoswap o s := rfl
theorem exec_amocas (o : MOp) (s : State) : exec (.amocas o) s = execAmocas o s := rfl
theorem exec_amoadd (o : MOp) (s : State) : exec (.amoadd o) s = execAmoadd o s := rfl
theorem exec_amoand (o : MOp) (s : State) : exec (.amoand o) s = execAmoand o s := rfl
theorem exec_amoor (o : MOp) (s : State) : exec (.amoor o) s = execAmoor o s := rfl
theorem exec_amoxor (o : MOp) (s : State) : exec (.amoxor o) s = execAmoxor o s := rfl
theorem exec_amomin (o : MOp) (s : State) : exec (.amomin o) s = execAmomin o s := rfl
theorem exec_amomax (o : MOp) (s : State) : exec (.amomax o) s = execAmomax o s := rfl
theorem exec_amominu (o : MOp) (s : State) : exec (.amominu o) s = execAmominu o s := rfl
theorem exec_amomaxu (o : MOp) (s : State) : exec (.amomaxu o) s = execAmomaxu o s := rfl
theorem exec_amofadd (o : MOp) (s : State) : exec (.amofadd o) s = execAmofadd o s := rfl
theorem exec_amofmax (o : MOp) (s : State) : exec (.amofmax o) s = execAmofmax o s := rfl
theorem exec_amoincw (o : MOp) (s : State) : exec (.amoincw o) s = execAmoincw o s := rfl
theorem exec_amoaddb (o : MOp) (s : State) : exec (.amoaddb o) s = execAmoaddb o s := rfl
theorem exec_vamo (o : MOp) (s : State) : exec (.vamo o) s = execVamo o s := rfl
theorem exec_vfas (o : MOp) (s : State) : exec (.vfas o) s = execVfas o s := rfl
theorem exec_copy (o : EOp) (s : State) : exec (.copy o) s = execCopy o s := rfl
theorem exec_copycv (o : EOp) (s : State) : exec (.copycv o) s = execCopycv o s := rfl
theorem exec_copyseg (o : EOp) (s : State) : exec (.copyseg o) s = execCopyseg o s := rfl
theorem exec_wsload (o : EOp) (s : State) : exec (.wsload o) s = execWsload o s := rfl
theorem exec_mkout (o : EOp) (s : State) : exec (.mkout o) s = execMkout o s := rfl
theorem exec_rinit (o : GOp) (s : State) : exec (.rinit o) s = execRinit o s := rfl
theorem exec_rawait (o : GOp) (s : State) : exec (.rawait o) s = execRawait o s := rfl
theorem exec_rrel (o : GOp) (s : State) : exec (.rrel o) s = execRrel o s := rfl
theorem exec_rpeek (o : GOp) (s : State) : exec (.rpeek o) s = execRpeek o s := rfl
theorem exec_son (o : GOp) (s : State) : exec (.son o) s = execSon o s := rfl
theorem exec_soff (o : GOp) (s : State) : exec (.soff o) s = execSoff o s := rfl
theorem exec_sstat (o : GOp) (s : State) : exec (.sstat o) s = execSstat o s := rfl
theorem exec_binit (o : EOp) (s : State) : exec (.binit o) s = execBinit o s := rfl
theorem exec_bapp (o : EOp) (s : State) : exec (.bapp o) s = execBapp o s := rfl
theorem exec_breplay (o : EOp) (s : State) : exec (.breplay o) s = execBreplay o s := rfl
theorem exec_bflush (o : EOp) (s : State) : exec (.bflush o) s = execBflush o s := rfl
theorem exec_apld (o : GOp) (s : State) : exec (.apld o) s = execApld o s := rfl
theorem exec_apst (o : GOp) (s : State) : exec (.apst o) s = execApst o s := rfl
theorem exec_apset (o : GOp) (s : State) : exec (.apset o) s = execApset o s := rfl
theorem exec_ralloc (o : GOp) (s : State) : exec (.ralloc o) s = execRalloc o s := rfl
theorem exec_vfork (o : GOp) (s : State) : exec (.vfork o) s = execVfork o s := rfl
theorem exec_vnarrow (o : GOp) (s : State) : exec (.vnarrow o) s = execVnarrow o s := rfl
theorem exec_vsplit (o : GOp) (s : State) : exec (.vsplit o) s = execVsplit o s := rfl
theorem exec_vdrop (o : GOp) (s : State) : exec (.vdrop o) s = execVdrop o s := rfl
theorem exec_vinfo (o : GOp) (s : State) : exec (.vinfo o) s = execVinfo o s := rfl
theorem exec_vexport (o : GOp) (s : State) : exec (.vexport o) s = execVexport o s := rfl
theorem exec_vimport (o : GOp) (s : State) : exec (.vimport o) s = execVimport o s := rfl
theorem exec_hgload (o : GOp) (s : State) : exec (.hgload o) s = execHgload o s := rfl
theorem exec_hggrad (o : GOp) (s : State) : exec (.hggrad o) s = execHggrad o s := rfl
theorem exec_hgcell (o : GOp) (s : State) : exec (.hgcell o) s = execHgcell o s := rfl
theorem exec_launch (o : GOp) (s : State) : exec (.launch o) s = execLaunch o s := rfl
theorem exec_wmark (o : GOp) (s : State) : exec (.wmark o) s = execWmark o s := rfl
theorem exec_barj (o : GOp) (s : State) : exec (.barj o) s = execBarj o s := rfl
theorem exec_bara (o : GOp) (s : State) : exec (.bara o) s = execBara o s := rfl
theorem exec_barw (o : GOp) (s : State) : exec (.barw o) s = execBarw o s := rfl
theorem exec_barl (o : GOp) (s : State) : exec (.barl o) s = execBarl o s := rfl
theorem exec_drain (o : GOp) (s : State) : exec (.drain o) s = execDrain o s := rfl
theorem exec_sleepu (o : GOp) (s : State) : exec (.sleepu o) s = execSleepu o s := rfl
theorem exec_fence (o : GOp) (s : State) : exec (.fence o) s = execFence o s := rfl
theorem exec_csrr (o : GOp) (s : State) : exec (.csrr o) s = execCsrr o s := rfl
theorem exec_csrw (o : GOp) (s : State) : exec (.csrw o) s = execCsrw o s := rfl
theorem exec_csrs (o : GOp) (s : State) : exec (.csrs o) s = execCsrs o s := rfl
theorem exec_csrc (o : GOp) (s : State) : exec (.csrc o) s = execCsrc o s := rfl
theorem exec_ecall (o : GOp) (s : State) : exec (.ecall o) s = execEcall o s := rfl
theorem exec_brk (o : GOp) (s : State) : exec (.brk o) s = execBrk o s := rfl
theorem exec_tlbinv (o : GOp) (s : State) : exec (.tlbinv o) s = execTlbinv o s := rfl
theorem exec_vsegld (o : MOp) (s : State) : exec (.vsegld o) s = execVsegld o s := rfl
theorem exec_nop (s : State) : exec .nop s = execNop s := rfl
theorem exec_agang0 (s : State) : exec .agang0 s = execAgang0 s := rfl
theorem exec_agang4 (s : State) : exec .agang4 s = execAgang4 s := rfl
theorem exec_agangBad (s : State) : exec .agangBad s = execAgangBad s := rfl
theorem exec_endTask (s : State) : exec .endTask s = execEndTask s := rfl
theorem exec_yieldpt (s : State) : exec .yieldpt s = execYieldpt s := rfl
theorem exec_fenceRoHart (s : State) : exec .fenceRoHart s = execFenceRoHart s := rfl
theorem exec_fenceRoCore (s : State) : exec .fenceRoCore s = execFenceRoCore s := rfl
theorem exec_fenceRoPair (s : State) : exec .fenceRoPair s = execFenceRoPair s := rfl
theorem exec_fenceRoDie (s : State) : exec .fenceRoDie s = execFenceRoDie s := rfl
theorem exec_fenceRoPkg (s : State) : exec .fenceRoPkg s = execFenceRoPkg s := rfl
theorem exec_fenceRoSys (s : State) : exec .fenceRoSys s = execFenceRoSys s := rfl
theorem exec_fenceI (s : State) : exec .fenceI s = execFenceI s := rfl
theorem exec_tret (s : State) : exec .tret s = execTret s := rfl
theorem exec_wfi (s : State) : exec .wfi s = execWfi s := rfl
theorem exec_dfan (s : State) : exec .dfan s = execDfan s := rfl
theorem exec_vld1k (s : State) : exec .vld1k s = execVld1k s := rfl
theorem exec_stripClose (s : State) : exec .stripClose s = execStripClose s := rfl
theorem exec_diagonalEnginePick (s : State) : exec .diagonalEnginePick s = execDiagonalEnginePick s := rfl
theorem exec_tileReturn (s : State) : exec .tileReturn s = execTileReturn s := rfl
theorem exec_commandCompletion (s : State) : exec .commandCompletion s = execCommandCompletion s := rfl
theorem exec_ladleFaultResume (s : State) : exec .ladleFaultResume s = execLadleFaultResume s := rfl
theorem exec_rawaitWake (s : State) : exec .rawaitWake s = execRawaitWake s := rfl
theorem exec_missedPromise (s : State) : exec .missedPromise s = execMissedPromise s := rfl
theorem exec_streamRefill (s : State) : exec .streamRefill s = execStreamRefill s := rfl
theorem exec_sieveApply (s : State) : exec .sieveApply s = execSieveApply s := rfl
theorem exec_scraperFree (s : State) : exec .scraperFree s = execScraperFree s := rfl
theorem exec_barwWake (s : State) : exec .barwWake s = execBarwWake s := rfl
theorem exec_drainDone (s : State) : exec .drainDone s = execDrainDone s := rfl
theorem exec_sleepuWake (s : State) : exec .sleepuWake s = execSleepuWake s := rfl
theorem exec_wfiWake (s : State) : exec .wfiWake s = execWfiWake s := rfl
theorem exec_trapReflect (s : State) : exec .trapReflect s = execTrapReflect s := rfl
theorem exec_taskKill (s : State) : exec .taskKill s = execTaskKill s := rfl
theorem exec_lqGo (s : State) : exec .lqGo s = execLqGo s := rfl
theorem exec_lqOvfClear (s : State) : exec .lqOvfClear s = execLqOvfClear s := rfl
theorem exec_registerWrite (s : State) : exec .registerWrite s = execRegisterWrite s := rfl
theorem exec_graphValidation (s : State) : exec .graphValidation s = execGraphValidation s := rfl
theorem exec_nodeRelease (s : State) : exec .nodeRelease s = execNodeRelease s := rfl
theorem exec_nodeCompletion (s : State) : exec .nodeCompletion s = execNodeCompletion s := rfl
theorem exec_tilePlace (s : State) : exec .tilePlace s = execTilePlace s := rfl
theorem exec_priorityAging (s : State) : exec .priorityAging s = execPriorityAging s := rfl
theorem exec_dispatcherWriteResume (s : State) : exec .dispatcherWriteResume s = execDispatcherWriteResume s := rfl
theorem exec_preemptRequest (s : State) : exec .preemptRequest s = execPreemptRequest s := rfl
theorem exec_forcedStop (s : State) : exec .forcedStop s = execForcedStop s := rfl
theorem exec_refreshWindowStart (s : State) : exec .refreshWindowStart s = execRefreshWindowStart s := rfl
theorem exec_refreshWindowEnd (s : State) : exec .refreshWindowEnd s = execRefreshWindowEnd s := rfl
theorem exec_migrationLineCopy (s : State) : exec .migrationLineCopy s = execMigrationLineCopy s := rfl
theorem exec_rdWritePerform (s : State) : exec .rdWritePerform s = execRdWritePerform s := rfl
theorem exec_hostRead (s : State) : exec .hostRead s = execHostRead s := rfl
theorem exec_hostWrite (s : State) : exec .hostWrite s = execHostWrite s := rfl
theorem exec_brynedFlit (s : State) : exec .brynedFlit s = execBrynedFlit s := rfl
theorem exec_portDown (s : State) : exec .portDown s = execPortDown s := rfl
theorem exec_brynedRequest (s : State) : exec .brynedRequest s = execBrynedRequest s := rfl
theorem exec_coreStateError (s : State) : exec .coreStateError s = execCoreStateError s := rfl
theorem exec_watchdogExpiry (s : State) : exec .watchdogExpiry s = execWatchdogExpiry s := rfl
theorem exec_monitorEvent (s : State) : exec .monitorEvent s = execMonitorEvent s := rfl
theorem exec_throttleEscalate (s : State) : exec .throttleEscalate s = execThrottleEscalate s := rfl
theorem exec_budgetWindow (s : State) : exec .budgetWindow s = execBudgetWindow s := rfl
theorem exec_codeObjectLoad (s : State) : exec .codeObjectLoad s = execCodeObjectLoad s := rfl
theorem exec_boot (s : State) : exec .boot s = execBoot s := rfl
theorem exec_sieveFaultResume (s : State) : exec .sieveFaultResume s = execSieveFaultResume s := rfl
theorem exec_accessPerform (s : State) : exec .accessPerform s = execAccessPerform s := rfl

end Sys2Proof.Machine
end

