-- ==== Sys2Proof/Laws/State.lean ====
section
/-!
SUPPORT. What each update of a record leaves unchanged, field by field, and what the register files read back.
-/

namespace Sys2Proof.Machine

section HartUpdates

variable (h : Hart)

@[simp] theorem Hart.setX_place (r : Reg) (v : Word) : (h.setX r v).place = h.place := by unfold Hart.setX; split <;> rfl
@[simp] theorem Hart.setX_run (r : Reg) (v : Word) : (h.setX r v).run = h.run := by unfold Hart.setX; split <;> rfl
@[simp] theorem Hart.setX_asid (r : Reg) (v : Word) : (h.setX r v).asid = h.asid := by unfold Hart.setX; split <;> rfl
@[simp] theorem Hart.setX_pc (r : Reg) (v : Word) : (h.setX r v).pc = h.pc := by unfold Hart.setX; split <;> rfl
@[simp] theorem Hart.setX_sequential (r : Reg) (v : Word) : (h.setX r v).sequential = h.sequential := by unfold Hart.setX; split <;> rfl
@[simp] theorem Hart.setX_arrived (r : Reg) (v : Word) : (h.setX r v).arrived = h.arrived := by unfold Hart.setX; split <;> rfl
@[simp] theorem Hart.setX_firmware (r : Reg) (v : Word) : (h.setX r v).firmware = h.firmware := by unfold Hart.setX; split <;> rfl
@[simp] theorem Hart.setX_leader (r : Reg) (v : Word) : (h.setX r v).leader = h.leader := by unfold Hart.setX; split <;> rfl
@[simp] theorem Hart.setX_pair (r : Reg) (v : Word) : (h.setX r v).pair = h.pair := by unfold Hart.setX; split <;> rfl
@[simp] theorem Hart.setX_det (r : Reg) (v : Word) : (h.setX r v).det = h.det := by unfold Hart.setX; split <;> rfl
@[simp] theorem Hart.setX_own (r : Reg) (v : Word) : (h.setX r v).own = h.own := by unfold Hart.setX; split <;> rfl
@[simp] theorem Hart.setX_far (r : Reg) (v : Word) : (h.setX r v).far = h.far := by unfold Hart.setX; split <;> rfl
@[simp] theorem Hart.setX_m (r : Reg) (v : Word) : (h.setX r v).m = h.m := by unfold Hart.setX; split <;> rfl
@[simp] theorem Hart.setX_bs (r : Reg) (v : Word) : (h.setX r v).bs = h.bs := by unfold Hart.setX; split <;> rfl
@[simp] theorem Hart.setX_ap (r : Reg) (v : Word) : (h.setX r v).ap = h.ap := by unfold Hart.setX; split <;> rfl
@[simp] theorem Hart.setX_h (r : Reg) (v : Word) : (h.setX r v).h = h.h := by unfold Hart.setX; split <;> rfl
@[simp] theorem Hart.setX_ac (r : Reg) (v : Word) : (h.setX r v).ac = h.ac := by unfold Hart.setX; split <;> rfl
@[simp] theorem Hart.setX_retiring (r : Reg) (v : Word) : (h.setX r v).retiring = h.retiring := by unfold Hart.setX; split <;> rfl
@[simp] theorem Hart.setX_streams (r : Reg) (v : Word) : (h.setX r v).streams = h.streams := by unfold Hart.setX; split <;> rfl
@[simp] theorem Hart.setX_csr (r : Reg) (v : Word) : (h.setX r v).csr = h.csr := by unfold Hart.setX; split <;> rfl
@[simp] theorem Hart.setX_task (r : Reg) (v : Word) : (h.setX r v).task = h.task := by unfold Hart.setX; split <;> rfl
@[simp] theorem Hart.setX_bars (r : Reg) (v : Word) : (h.setX r v).bars = h.bars := by unfold Hart.setX; split <;> rfl
@[simp] theorem Hart.setX_lates (r : Reg) (v : Word) : (h.setX r v).lates = h.lates := by unfold Hart.setX; split <;> rfl
@[simp] theorem Hart.setX_promise (r : Reg) (v : Word) : (h.setX r v).promise = h.promise := by unfold Hart.setX; split <;> rfl
@[simp] theorem Hart.setX_counters (r : Reg) (v : Word) : (h.setX r v).counters = h.counters := by unfold Hart.setX; split <;> rfl
@[simp] theorem Hart.setX_waiting (r : Reg) (v : Word) : (h.setX r v).waiting = h.waiting := by unfold Hart.setX; split <;> rfl
@[simp] theorem Hart.setX_faulting (r : Reg) (v : Word) : (h.setX r v).faulting = h.faulting := by unfold Hart.setX; split <;> rfl
@[simp] theorem Hart.setX_fwEvent (r : Reg) (v : Word) : (h.setX r v).fwEvent = h.fwEvent := by unfold Hart.setX; split <;> rfl
@[simp] theorem Hart.setX_deadline (r : Reg) (v : Word) : (h.setX r v).deadline = h.deadline := by unfold Hart.setX; split <;> rfl
@[simp] theorem Hart.setX_launched (r : Reg) (v : Word) : (h.setX r v).launched = h.launched := by unfold Hart.setX; split <;> rfl
@[simp] theorem Hart.setX_acted (r : Reg) (v : Word) : (h.setX r v).acted = h.acted := by unfold Hart.setX; split <;> rfl
@[simp] theorem Hart.setX_ordered (r : Reg) (v : Word) : (h.setX r v).ordered = h.ordered := by unfold Hart.setX; split <;> rfl
@[simp] theorem Hart.setX_refetched (r : Reg) (v : Word) : (h.setX r v).refetched = h.refetched := by unfold Hart.setX; split <;> rfl
@[simp] theorem Hart.setX_loop (r : Reg) (v : Word) : (h.setX r v).loop = h.loop := by unfold Hart.setX; split <;> rfl
@[simp] theorem Hart.setX_landing (r : Reg) (v : Word) : (h.setX r v).landing = h.landing := by unfold Hart.setX; split <;> rfl

@[simp] theorem Hart.setXFromXu_place (r : Reg) (v : Word) : (h.setXFromXu r v).place = h.place := by unfold Hart.setXFromXu; split <;> simp
@[simp] theorem Hart.setXFromXu_run (r : Reg) (v : Word) : (h.setXFromXu r v).run = h.run := by unfold Hart.setXFromXu; split <;> simp
@[simp] theorem Hart.setXFromXu_asid (r : Reg) (v : Word) : (h.setXFromXu r v).asid = h.asid := by unfold Hart.setXFromXu; split <;> simp
@[simp] theorem Hart.setXFromXu_pc (r : Reg) (v : Word) : (h.setXFromXu r v).pc = h.pc := by unfold Hart.setXFromXu; split <;> simp
@[simp] theorem Hart.setXFromXu_sequential (r : Reg) (v : Word) : (h.setXFromXu r v).sequential = h.sequential := by unfold Hart.setXFromXu; split <;> simp
@[simp] theorem Hart.setXFromXu_arrived (r : Reg) (v : Word) : (h.setXFromXu r v).arrived = h.arrived := by unfold Hart.setXFromXu; split <;> simp
@[simp] theorem Hart.setXFromXu_firmware (r : Reg) (v : Word) : (h.setXFromXu r v).firmware = h.firmware := by unfold Hart.setXFromXu; split <;> simp
@[simp] theorem Hart.setXFromXu_leader (r : Reg) (v : Word) : (h.setXFromXu r v).leader = h.leader := by unfold Hart.setXFromXu; split <;> simp
@[simp] theorem Hart.setXFromXu_pair (r : Reg) (v : Word) : (h.setXFromXu r v).pair = h.pair := by unfold Hart.setXFromXu; split <;> simp
@[simp] theorem Hart.setXFromXu_det (r : Reg) (v : Word) : (h.setXFromXu r v).det = h.det := by unfold Hart.setXFromXu; split <;> simp
@[simp] theorem Hart.setXFromXu_own (r : Reg) (v : Word) : (h.setXFromXu r v).own = h.own := by unfold Hart.setXFromXu; split <;> simp
@[simp] theorem Hart.setXFromXu_far (r : Reg) (v : Word) : (h.setXFromXu r v).far = h.far := by unfold Hart.setXFromXu; split <;> simp
@[simp] theorem Hart.setXFromXu_m (r : Reg) (v : Word) : (h.setXFromXu r v).m = h.m := by unfold Hart.setXFromXu; split <;> simp
@[simp] theorem Hart.setXFromXu_bs (r : Reg) (v : Word) : (h.setXFromXu r v).bs = h.bs := by unfold Hart.setXFromXu; split <;> simp
@[simp] theorem Hart.setXFromXu_ap (r : Reg) (v : Word) : (h.setXFromXu r v).ap = h.ap := by unfold Hart.setXFromXu; split <;> simp
@[simp] theorem Hart.setXFromXu_h (r : Reg) (v : Word) : (h.setXFromXu r v).h = h.h := by unfold Hart.setXFromXu; split <;> simp
@[simp] theorem Hart.setXFromXu_ac (r : Reg) (v : Word) : (h.setXFromXu r v).ac = h.ac := by unfold Hart.setXFromXu; split <;> simp
@[simp] theorem Hart.setXFromXu_retiring (r : Reg) (v : Word) : (h.setXFromXu r v).retiring = h.retiring := by unfold Hart.setXFromXu; split <;> simp
@[simp] theorem Hart.setXFromXu_streams (r : Reg) (v : Word) : (h.setXFromXu r v).streams = h.streams := by unfold Hart.setXFromXu; split <;> simp
@[simp] theorem Hart.setXFromXu_csr (r : Reg) (v : Word) : (h.setXFromXu r v).csr = h.csr := by unfold Hart.setXFromXu; split <;> simp
@[simp] theorem Hart.setXFromXu_task (r : Reg) (v : Word) : (h.setXFromXu r v).task = h.task := by unfold Hart.setXFromXu; split <;> simp
@[simp] theorem Hart.setXFromXu_bars (r : Reg) (v : Word) : (h.setXFromXu r v).bars = h.bars := by unfold Hart.setXFromXu; split <;> simp
@[simp] theorem Hart.setXFromXu_lates (r : Reg) (v : Word) : (h.setXFromXu r v).lates = h.lates := by unfold Hart.setXFromXu; split <;> simp
@[simp] theorem Hart.setXFromXu_promise (r : Reg) (v : Word) : (h.setXFromXu r v).promise = h.promise := by unfold Hart.setXFromXu; split <;> simp
@[simp] theorem Hart.setXFromXu_counters (r : Reg) (v : Word) : (h.setXFromXu r v).counters = h.counters := by unfold Hart.setXFromXu; split <;> simp
@[simp] theorem Hart.setXFromXu_waiting (r : Reg) (v : Word) : (h.setXFromXu r v).waiting = h.waiting := by unfold Hart.setXFromXu; split <;> simp
@[simp] theorem Hart.setXFromXu_faulting (r : Reg) (v : Word) : (h.setXFromXu r v).faulting = h.faulting := by unfold Hart.setXFromXu; split <;> simp
@[simp] theorem Hart.setXFromXu_fwEvent (r : Reg) (v : Word) : (h.setXFromXu r v).fwEvent = h.fwEvent := by unfold Hart.setXFromXu; split <;> simp
@[simp] theorem Hart.setXFromXu_deadline (r : Reg) (v : Word) : (h.setXFromXu r v).deadline = h.deadline := by unfold Hart.setXFromXu; split <;> simp
@[simp] theorem Hart.setXFromXu_launched (r : Reg) (v : Word) : (h.setXFromXu r v).launched = h.launched := by unfold Hart.setXFromXu; split <;> simp
@[simp] theorem Hart.setXFromXu_acted (r : Reg) (v : Word) : (h.setXFromXu r v).acted = h.acted := by unfold Hart.setXFromXu; split <;> simp
@[simp] theorem Hart.setXFromXu_ordered (r : Reg) (v : Word) : (h.setXFromXu r v).ordered = h.ordered := by unfold Hart.setXFromXu; split <;> simp
@[simp] theorem Hart.setXFromXu_refetched (r : Reg) (v : Word) : (h.setXFromXu r v).refetched = h.refetched := by unfold Hart.setXFromXu; split <;> simp
@[simp] theorem Hart.setXFromXu_loop (r : Reg) (v : Word) : (h.setXFromXu r v).loop = h.loop := by unfold Hart.setXFromXu; split <;> simp
@[simp] theorem Hart.setXFromXu_landing (r : Reg) (v : Word) : (h.setXFromXu r v).landing = h.landing := by unfold Hart.setXFromXu; split <;> simp

@[simp] theorem Hart.loseDecoupling_place : (h.loseDecoupling).place = h.place := by unfold Hart.loseDecoupling; split <;> rfl
@[simp] theorem Hart.loseDecoupling_run : (h.loseDecoupling).run = h.run := by unfold Hart.loseDecoupling; split <;> rfl
@[simp] theorem Hart.loseDecoupling_asid : (h.loseDecoupling).asid = h.asid := by unfold Hart.loseDecoupling; split <;> rfl
@[simp] theorem Hart.loseDecoupling_pc : (h.loseDecoupling).pc = h.pc := by unfold Hart.loseDecoupling; split <;> rfl
@[simp] theorem Hart.loseDecoupling_sequential : (h.loseDecoupling).sequential = h.sequential := by unfold Hart.loseDecoupling; split <;> rfl
@[simp] theorem Hart.loseDecoupling_arrived : (h.loseDecoupling).arrived = h.arrived := by unfold Hart.loseDecoupling; split <;> rfl
@[simp] theorem Hart.loseDecoupling_firmware : (h.loseDecoupling).firmware = h.firmware := by unfold Hart.loseDecoupling; split <;> rfl
@[simp] theorem Hart.loseDecoupling_leader : (h.loseDecoupling).leader = h.leader := by unfold Hart.loseDecoupling; split <;> rfl
@[simp] theorem Hart.loseDecoupling_pair : (h.loseDecoupling).pair = h.pair := by unfold Hart.loseDecoupling; split <;> rfl
@[simp] theorem Hart.loseDecoupling_det : (h.loseDecoupling).det = h.det := by unfold Hart.loseDecoupling; split <;> rfl
@[simp] theorem Hart.loseDecoupling_x : (h.loseDecoupling).x = h.x := by unfold Hart.loseDecoupling; split <;> rfl
@[simp] theorem Hart.loseDecoupling_own : (h.loseDecoupling).own = h.own := by unfold Hart.loseDecoupling; split <;> rfl
@[simp] theorem Hart.loseDecoupling_far : (h.loseDecoupling).far = h.far := by unfold Hart.loseDecoupling; split <;> rfl
@[simp] theorem Hart.loseDecoupling_m : (h.loseDecoupling).m = h.m := by unfold Hart.loseDecoupling; split <;> rfl
@[simp] theorem Hart.loseDecoupling_bs : (h.loseDecoupling).bs = h.bs := by unfold Hart.loseDecoupling; split <;> rfl
@[simp] theorem Hart.loseDecoupling_ap : (h.loseDecoupling).ap = h.ap := by unfold Hart.loseDecoupling; split <;> rfl
@[simp] theorem Hart.loseDecoupling_h : (h.loseDecoupling).h = h.h := by unfold Hart.loseDecoupling; split <;> rfl
@[simp] theorem Hart.loseDecoupling_ac : (h.loseDecoupling).ac = h.ac := by unfold Hart.loseDecoupling; split <;> rfl
@[simp] theorem Hart.loseDecoupling_retiring : (h.loseDecoupling).retiring = h.retiring := by unfold Hart.loseDecoupling; split <;> rfl
@[simp] theorem Hart.loseDecoupling_streams : (h.loseDecoupling).streams = h.streams := by unfold Hart.loseDecoupling; split <;> rfl
@[simp] theorem Hart.loseDecoupling_csr : (h.loseDecoupling).csr = h.csr := by unfold Hart.loseDecoupling; split <;> rfl
@[simp] theorem Hart.loseDecoupling_task : (h.loseDecoupling).task = h.task := by unfold Hart.loseDecoupling; split <;> rfl
@[simp] theorem Hart.loseDecoupling_bars : (h.loseDecoupling).bars = h.bars := by unfold Hart.loseDecoupling; split <;> rfl
@[simp] theorem Hart.loseDecoupling_lates : (h.loseDecoupling).lates = h.lates := by unfold Hart.loseDecoupling; split <;> rfl
@[simp] theorem Hart.loseDecoupling_promise : (h.loseDecoupling).promise = h.promise := by unfold Hart.loseDecoupling; split <;> rfl
@[simp] theorem Hart.loseDecoupling_fromXu : (h.loseDecoupling).fromXu = h.fromXu := by unfold Hart.loseDecoupling; split <;> rfl
@[simp] theorem Hart.loseDecoupling_waiting : (h.loseDecoupling).waiting = h.waiting := by unfold Hart.loseDecoupling; split <;> rfl
@[simp] theorem Hart.loseDecoupling_faulting : (h.loseDecoupling).faulting = h.faulting := by unfold Hart.loseDecoupling; split <;> rfl
@[simp] theorem Hart.loseDecoupling_fwEvent : (h.loseDecoupling).fwEvent = h.fwEvent := by unfold Hart.loseDecoupling; split <;> rfl
@[simp] theorem Hart.loseDecoupling_deadline : (h.loseDecoupling).deadline = h.deadline := by unfold Hart.loseDecoupling; split <;> rfl
@[simp] theorem Hart.loseDecoupling_launched : (h.loseDecoupling).launched = h.launched := by unfold Hart.loseDecoupling; split <;> rfl
@[simp] theorem Hart.loseDecoupling_acted : (h.loseDecoupling).acted = h.acted := by unfold Hart.loseDecoupling; split <;> rfl
@[simp] theorem Hart.loseDecoupling_ordered : (h.loseDecoupling).ordered = h.ordered := by unfold Hart.loseDecoupling; split <;> rfl
@[simp] theorem Hart.loseDecoupling_refetched : (h.loseDecoupling).refetched = h.refetched := by unfold Hart.loseDecoupling; split <;> rfl
@[simp] theorem Hart.loseDecoupling_loop : (h.loseDecoupling).loop = h.loop := by unfold Hart.loseDecoupling; split <;> rfl
@[simp] theorem Hart.loseDecoupling_landing : (h.loseDecoupling).landing = h.landing := by unfold Hart.loseDecoupling; split <;> rfl

@[simp] theorem Hart.auRead_place (l : List Reg) : (h.auRead l).place = h.place := by unfold Hart.auRead; dsimp only; split <;> simp
@[simp] theorem Hart.auRead_run (l : List Reg) : (h.auRead l).run = h.run := by unfold Hart.auRead; dsimp only; split <;> simp
@[simp] theorem Hart.auRead_asid (l : List Reg) : (h.auRead l).asid = h.asid := by unfold Hart.auRead; dsimp only; split <;> simp
@[simp] theorem Hart.auRead_pc (l : List Reg) : (h.auRead l).pc = h.pc := by unfold Hart.auRead; dsimp only; split <;> simp
@[simp] theorem Hart.auRead_sequential (l : List Reg) : (h.auRead l).sequential = h.sequential := by unfold Hart.auRead; dsimp only; split <;> simp
@[simp] theorem Hart.auRead_arrived (l : List Reg) : (h.auRead l).arrived = h.arrived := by unfold Hart.auRead; dsimp only; split <;> simp
@[simp] theorem Hart.auRead_firmware (l : List Reg) : (h.auRead l).firmware = h.firmware := by unfold Hart.auRead; dsimp only; split <;> simp
@[simp] theorem Hart.auRead_leader (l : List Reg) : (h.auRead l).leader = h.leader := by unfold Hart.auRead; dsimp only; split <;> simp
@[simp] theorem Hart.auRead_pair (l : List Reg) : (h.auRead l).pair = h.pair := by unfold Hart.auRead; dsimp only; split <;> simp
@[simp] theorem Hart.auRead_det (l : List Reg) : (h.auRead l).det = h.det := by unfold Hart.auRead; dsimp only; split <;> simp
@[simp] theorem Hart.auRead_x (l : List Reg) : (h.auRead l).x = h.x := by unfold Hart.auRead; dsimp only; split <;> simp
@[simp] theorem Hart.auRead_own (l : List Reg) : (h.auRead l).own = h.own := by unfold Hart.auRead; dsimp only; split <;> simp
@[simp] theorem Hart.auRead_far (l : List Reg) : (h.auRead l).far = h.far := by unfold Hart.auRead; dsimp only; split <;> simp
@[simp] theorem Hart.auRead_m (l : List Reg) : (h.auRead l).m = h.m := by unfold Hart.auRead; dsimp only; split <;> simp
@[simp] theorem Hart.auRead_bs (l : List Reg) : (h.auRead l).bs = h.bs := by unfold Hart.auRead; dsimp only; split <;> simp
@[simp] theorem Hart.auRead_ap (l : List Reg) : (h.auRead l).ap = h.ap := by unfold Hart.auRead; dsimp only; split <;> simp
@[simp] theorem Hart.auRead_h (l : List Reg) : (h.auRead l).h = h.h := by unfold Hart.auRead; dsimp only; split <;> simp
@[simp] theorem Hart.auRead_ac (l : List Reg) : (h.auRead l).ac = h.ac := by unfold Hart.auRead; dsimp only; split <;> simp
@[simp] theorem Hart.auRead_retiring (l : List Reg) : (h.auRead l).retiring = h.retiring := by unfold Hart.auRead; dsimp only; split <;> simp
@[simp] theorem Hart.auRead_streams (l : List Reg) : (h.auRead l).streams = h.streams := by unfold Hart.auRead; dsimp only; split <;> simp
@[simp] theorem Hart.auRead_csr (l : List Reg) : (h.auRead l).csr = h.csr := by unfold Hart.auRead; dsimp only; split <;> simp
@[simp] theorem Hart.auRead_task (l : List Reg) : (h.auRead l).task = h.task := by unfold Hart.auRead; dsimp only; split <;> simp
@[simp] theorem Hart.auRead_bars (l : List Reg) : (h.auRead l).bars = h.bars := by unfold Hart.auRead; dsimp only; split <;> simp
@[simp] theorem Hart.auRead_lates (l : List Reg) : (h.auRead l).lates = h.lates := by unfold Hart.auRead; dsimp only; split <;> simp
@[simp] theorem Hart.auRead_promise (l : List Reg) : (h.auRead l).promise = h.promise := by unfold Hart.auRead; dsimp only; split <;> simp
@[simp] theorem Hart.auRead_waiting (l : List Reg) : (h.auRead l).waiting = h.waiting := by unfold Hart.auRead; dsimp only; split <;> simp
@[simp] theorem Hart.auRead_faulting (l : List Reg) : (h.auRead l).faulting = h.faulting := by unfold Hart.auRead; dsimp only; split <;> simp
@[simp] theorem Hart.auRead_fwEvent (l : List Reg) : (h.auRead l).fwEvent = h.fwEvent := by unfold Hart.auRead; dsimp only; split <;> simp
@[simp] theorem Hart.auRead_deadline (l : List Reg) : (h.auRead l).deadline = h.deadline := by unfold Hart.auRead; dsimp only; split <;> simp
@[simp] theorem Hart.auRead_launched (l : List Reg) : (h.auRead l).launched = h.launched := by unfold Hart.auRead; dsimp only; split <;> simp
@[simp] theorem Hart.auRead_acted (l : List Reg) : (h.auRead l).acted = h.acted := by unfold Hart.auRead; dsimp only; split <;> simp
@[simp] theorem Hart.auRead_ordered (l : List Reg) : (h.auRead l).ordered = h.ordered := by unfold Hart.auRead; dsimp only; split <;> simp
@[simp] theorem Hart.auRead_refetched (l : List Reg) : (h.auRead l).refetched = h.refetched := by unfold Hart.auRead; dsimp only; split <;> simp
@[simp] theorem Hart.auRead_loop (l : List Reg) : (h.auRead l).loop = h.loop := by unfold Hart.auRead; dsimp only; split <;> simp
@[simp] theorem Hart.auRead_landing (l : List Reg) : (h.auRead l).landing = h.landing := by unfold Hart.auRead; dsimp only; split <;> simp

@[simp] theorem Hart.setBS_place (r : Nat) (v : EReg) : (h.setBS r v).place = h.place := rfl
@[simp] theorem Hart.setBS_run (r : Nat) (v : EReg) : (h.setBS r v).run = h.run := rfl
@[simp] theorem Hart.setBS_asid (r : Nat) (v : EReg) : (h.setBS r v).asid = h.asid := rfl
@[simp] theorem Hart.setBS_pc (r : Nat) (v : EReg) : (h.setBS r v).pc = h.pc := rfl
@[simp] theorem Hart.setBS_sequential (r : Nat) (v : EReg) : (h.setBS r v).sequential = h.sequential := rfl
@[simp] theorem Hart.setBS_arrived (r : Nat) (v : EReg) : (h.setBS r v).arrived = h.arrived := rfl
@[simp] theorem Hart.setBS_firmware (r : Nat) (v : EReg) : (h.setBS r v).firmware = h.firmware := rfl
@[simp] theorem Hart.setBS_leader (r : Nat) (v : EReg) : (h.setBS r v).leader = h.leader := rfl
@[simp] theorem Hart.setBS_pair (r : Nat) (v : EReg) : (h.setBS r v).pair = h.pair := rfl
@[simp] theorem Hart.setBS_det (r : Nat) (v : EReg) : (h.setBS r v).det = h.det := rfl
@[simp] theorem Hart.setBS_x (r : Nat) (v : EReg) : (h.setBS r v).x = h.x := rfl
@[simp] theorem Hart.setBS_own (r : Nat) (v : EReg) : (h.setBS r v).own = h.own := rfl
@[simp] theorem Hart.setBS_far (r : Nat) (v : EReg) : (h.setBS r v).far = h.far := rfl
@[simp] theorem Hart.setBS_m (r : Nat) (v : EReg) : (h.setBS r v).m = h.m := rfl
@[simp] theorem Hart.setBS_ap (r : Nat) (v : EReg) : (h.setBS r v).ap = h.ap := rfl
@[simp] theorem Hart.setBS_h (r : Nat) (v : EReg) : (h.setBS r v).h = h.h := rfl
@[simp] theorem Hart.setBS_ac (r : Nat) (v : EReg) : (h.setBS r v).ac = h.ac := rfl
@[simp] theorem Hart.setBS_retiring (r : Nat) (v : EReg) : (h.setBS r v).retiring = h.retiring := rfl
@[simp] theorem Hart.setBS_streams (r : Nat) (v : EReg) : (h.setBS r v).streams = h.streams := rfl
@[simp] theorem Hart.setBS_csr (r : Nat) (v : EReg) : (h.setBS r v).csr = h.csr := rfl
@[simp] theorem Hart.setBS_task (r : Nat) (v : EReg) : (h.setBS r v).task = h.task := rfl
@[simp] theorem Hart.setBS_bars (r : Nat) (v : EReg) : (h.setBS r v).bars = h.bars := rfl
@[simp] theorem Hart.setBS_lates (r : Nat) (v : EReg) : (h.setBS r v).lates = h.lates := rfl
@[simp] theorem Hart.setBS_promise (r : Nat) (v : EReg) : (h.setBS r v).promise = h.promise := rfl
@[simp] theorem Hart.setBS_counters (r : Nat) (v : EReg) : (h.setBS r v).counters = h.counters := rfl
@[simp] theorem Hart.setBS_fromXu (r : Nat) (v : EReg) : (h.setBS r v).fromXu = h.fromXu := rfl
@[simp] theorem Hart.setBS_waiting (r : Nat) (v : EReg) : (h.setBS r v).waiting = h.waiting := rfl
@[simp] theorem Hart.setBS_faulting (r : Nat) (v : EReg) : (h.setBS r v).faulting = h.faulting := rfl
@[simp] theorem Hart.setBS_fwEvent (r : Nat) (v : EReg) : (h.setBS r v).fwEvent = h.fwEvent := rfl
@[simp] theorem Hart.setBS_deadline (r : Nat) (v : EReg) : (h.setBS r v).deadline = h.deadline := rfl
@[simp] theorem Hart.setBS_launched (r : Nat) (v : EReg) : (h.setBS r v).launched = h.launched := rfl
@[simp] theorem Hart.setBS_acted (r : Nat) (v : EReg) : (h.setBS r v).acted = h.acted := rfl
@[simp] theorem Hart.setBS_ordered (r : Nat) (v : EReg) : (h.setBS r v).ordered = h.ordered := rfl
@[simp] theorem Hart.setBS_refetched (r : Nat) (v : EReg) : (h.setBS r v).refetched = h.refetched := rfl
@[simp] theorem Hart.setBS_loop (r : Nat) (v : EReg) : (h.setBS r v).loop = h.loop := rfl
@[simp] theorem Hart.setBS_landing (r : Nat) (v : EReg) : (h.setBS r v).landing = h.landing := rfl

@[simp] theorem Hart.setAP_place (r : Nat) (v : APReg) : (h.setAP r v).place = h.place := rfl
@[simp] theorem Hart.setAP_run (r : Nat) (v : APReg) : (h.setAP r v).run = h.run := rfl
@[simp] theorem Hart.setAP_asid (r : Nat) (v : APReg) : (h.setAP r v).asid = h.asid := rfl
@[simp] theorem Hart.setAP_pc (r : Nat) (v : APReg) : (h.setAP r v).pc = h.pc := rfl
@[simp] theorem Hart.setAP_sequential (r : Nat) (v : APReg) : (h.setAP r v).sequential = h.sequential := rfl
@[simp] theorem Hart.setAP_arrived (r : Nat) (v : APReg) : (h.setAP r v).arrived = h.arrived := rfl
@[simp] theorem Hart.setAP_firmware (r : Nat) (v : APReg) : (h.setAP r v).firmware = h.firmware := rfl
@[simp] theorem Hart.setAP_leader (r : Nat) (v : APReg) : (h.setAP r v).leader = h.leader := rfl
@[simp] theorem Hart.setAP_pair (r : Nat) (v : APReg) : (h.setAP r v).pair = h.pair := rfl
@[simp] theorem Hart.setAP_det (r : Nat) (v : APReg) : (h.setAP r v).det = h.det := rfl
@[simp] theorem Hart.setAP_x (r : Nat) (v : APReg) : (h.setAP r v).x = h.x := rfl
@[simp] theorem Hart.setAP_own (r : Nat) (v : APReg) : (h.setAP r v).own = h.own := rfl
@[simp] theorem Hart.setAP_far (r : Nat) (v : APReg) : (h.setAP r v).far = h.far := rfl
@[simp] theorem Hart.setAP_m (r : Nat) (v : APReg) : (h.setAP r v).m = h.m := rfl
@[simp] theorem Hart.setAP_bs (r : Nat) (v : APReg) : (h.setAP r v).bs = h.bs := rfl
@[simp] theorem Hart.setAP_h (r : Nat) (v : APReg) : (h.setAP r v).h = h.h := rfl
@[simp] theorem Hart.setAP_ac (r : Nat) (v : APReg) : (h.setAP r v).ac = h.ac := rfl
@[simp] theorem Hart.setAP_retiring (r : Nat) (v : APReg) : (h.setAP r v).retiring = h.retiring := rfl
@[simp] theorem Hart.setAP_streams (r : Nat) (v : APReg) : (h.setAP r v).streams = h.streams := rfl
@[simp] theorem Hart.setAP_csr (r : Nat) (v : APReg) : (h.setAP r v).csr = h.csr := rfl
@[simp] theorem Hart.setAP_task (r : Nat) (v : APReg) : (h.setAP r v).task = h.task := rfl
@[simp] theorem Hart.setAP_bars (r : Nat) (v : APReg) : (h.setAP r v).bars = h.bars := rfl
@[simp] theorem Hart.setAP_lates (r : Nat) (v : APReg) : (h.setAP r v).lates = h.lates := rfl
@[simp] theorem Hart.setAP_promise (r : Nat) (v : APReg) : (h.setAP r v).promise = h.promise := rfl
@[simp] theorem Hart.setAP_counters (r : Nat) (v : APReg) : (h.setAP r v).counters = h.counters := rfl
@[simp] theorem Hart.setAP_fromXu (r : Nat) (v : APReg) : (h.setAP r v).fromXu = h.fromXu := rfl
@[simp] theorem Hart.setAP_waiting (r : Nat) (v : APReg) : (h.setAP r v).waiting = h.waiting := rfl
@[simp] theorem Hart.setAP_faulting (r : Nat) (v : APReg) : (h.setAP r v).faulting = h.faulting := rfl
@[simp] theorem Hart.setAP_fwEvent (r : Nat) (v : APReg) : (h.setAP r v).fwEvent = h.fwEvent := rfl
@[simp] theorem Hart.setAP_deadline (r : Nat) (v : APReg) : (h.setAP r v).deadline = h.deadline := rfl
@[simp] theorem Hart.setAP_launched (r : Nat) (v : APReg) : (h.setAP r v).launched = h.launched := rfl
@[simp] theorem Hart.setAP_acted (r : Nat) (v : APReg) : (h.setAP r v).acted = h.acted := rfl
@[simp] theorem Hart.setAP_ordered (r : Nat) (v : APReg) : (h.setAP r v).ordered = h.ordered := rfl
@[simp] theorem Hart.setAP_refetched (r : Nat) (v : APReg) : (h.setAP r v).refetched = h.refetched := rfl
@[simp] theorem Hart.setAP_loop (r : Nat) (v : APReg) : (h.setAP r v).loop = h.loop := rfl
@[simp] theorem Hart.setAP_landing (r : Nat) (v : APReg) : (h.setAP r v).landing = h.landing := rfl

@[simp] theorem Hart.setH_place (r : Nat) (v : Handle) : (h.setH r v).place = h.place := rfl
@[simp] theorem Hart.setH_run (r : Nat) (v : Handle) : (h.setH r v).run = h.run := rfl
@[simp] theorem Hart.setH_asid (r : Nat) (v : Handle) : (h.setH r v).asid = h.asid := rfl
@[simp] theorem Hart.setH_pc (r : Nat) (v : Handle) : (h.setH r v).pc = h.pc := rfl
@[simp] theorem Hart.setH_sequential (r : Nat) (v : Handle) : (h.setH r v).sequential = h.sequential := rfl
@[simp] theorem Hart.setH_arrived (r : Nat) (v : Handle) : (h.setH r v).arrived = h.arrived := rfl
@[simp] theorem Hart.setH_firmware (r : Nat) (v : Handle) : (h.setH r v).firmware = h.firmware := rfl
@[simp] theorem Hart.setH_leader (r : Nat) (v : Handle) : (h.setH r v).leader = h.leader := rfl
@[simp] theorem Hart.setH_pair (r : Nat) (v : Handle) : (h.setH r v).pair = h.pair := rfl
@[simp] theorem Hart.setH_det (r : Nat) (v : Handle) : (h.setH r v).det = h.det := rfl
@[simp] theorem Hart.setH_x (r : Nat) (v : Handle) : (h.setH r v).x = h.x := rfl
@[simp] theorem Hart.setH_own (r : Nat) (v : Handle) : (h.setH r v).own = h.own := rfl
@[simp] theorem Hart.setH_far (r : Nat) (v : Handle) : (h.setH r v).far = h.far := rfl
@[simp] theorem Hart.setH_m (r : Nat) (v : Handle) : (h.setH r v).m = h.m := rfl
@[simp] theorem Hart.setH_bs (r : Nat) (v : Handle) : (h.setH r v).bs = h.bs := rfl
@[simp] theorem Hart.setH_ap (r : Nat) (v : Handle) : (h.setH r v).ap = h.ap := rfl
@[simp] theorem Hart.setH_ac (r : Nat) (v : Handle) : (h.setH r v).ac = h.ac := rfl
@[simp] theorem Hart.setH_retiring (r : Nat) (v : Handle) : (h.setH r v).retiring = h.retiring := rfl
@[simp] theorem Hart.setH_streams (r : Nat) (v : Handle) : (h.setH r v).streams = h.streams := rfl
@[simp] theorem Hart.setH_csr (r : Nat) (v : Handle) : (h.setH r v).csr = h.csr := rfl
@[simp] theorem Hart.setH_task (r : Nat) (v : Handle) : (h.setH r v).task = h.task := rfl
@[simp] theorem Hart.setH_bars (r : Nat) (v : Handle) : (h.setH r v).bars = h.bars := rfl
@[simp] theorem Hart.setH_lates (r : Nat) (v : Handle) : (h.setH r v).lates = h.lates := rfl
@[simp] theorem Hart.setH_promise (r : Nat) (v : Handle) : (h.setH r v).promise = h.promise := rfl
@[simp] theorem Hart.setH_counters (r : Nat) (v : Handle) : (h.setH r v).counters = h.counters := rfl
@[simp] theorem Hart.setH_fromXu (r : Nat) (v : Handle) : (h.setH r v).fromXu = h.fromXu := rfl
@[simp] theorem Hart.setH_waiting (r : Nat) (v : Handle) : (h.setH r v).waiting = h.waiting := rfl
@[simp] theorem Hart.setH_faulting (r : Nat) (v : Handle) : (h.setH r v).faulting = h.faulting := rfl
@[simp] theorem Hart.setH_fwEvent (r : Nat) (v : Handle) : (h.setH r v).fwEvent = h.fwEvent := rfl
@[simp] theorem Hart.setH_deadline (r : Nat) (v : Handle) : (h.setH r v).deadline = h.deadline := rfl
@[simp] theorem Hart.setH_launched (r : Nat) (v : Handle) : (h.setH r v).launched = h.launched := rfl
@[simp] theorem Hart.setH_acted (r : Nat) (v : Handle) : (h.setH r v).acted = h.acted := rfl
@[simp] theorem Hart.setH_ordered (r : Nat) (v : Handle) : (h.setH r v).ordered = h.ordered := rfl
@[simp] theorem Hart.setH_refetched (r : Nat) (v : Handle) : (h.setH r v).refetched = h.refetched := rfl
@[simp] theorem Hart.setH_loop (r : Nat) (v : Handle) : (h.setH r v).loop = h.loop := rfl
@[simp] theorem Hart.setH_landing (r : Nat) (v : Handle) : (h.setH r v).landing = h.landing := rfl

@[simp] theorem Hart.setAC_place (r : Nat) (v : AcName) : (h.setAC r v).place = h.place := rfl
@[simp] theorem Hart.setAC_run (r : Nat) (v : AcName) : (h.setAC r v).run = h.run := rfl
@[simp] theorem Hart.setAC_asid (r : Nat) (v : AcName) : (h.setAC r v).asid = h.asid := rfl
@[simp] theorem Hart.setAC_pc (r : Nat) (v : AcName) : (h.setAC r v).pc = h.pc := rfl
@[simp] theorem Hart.setAC_sequential (r : Nat) (v : AcName) : (h.setAC r v).sequential = h.sequential := rfl
@[simp] theorem Hart.setAC_arrived (r : Nat) (v : AcName) : (h.setAC r v).arrived = h.arrived := rfl
@[simp] theorem Hart.setAC_firmware (r : Nat) (v : AcName) : (h.setAC r v).firmware = h.firmware := rfl
@[simp] theorem Hart.setAC_leader (r : Nat) (v : AcName) : (h.setAC r v).leader = h.leader := rfl
@[simp] theorem Hart.setAC_pair (r : Nat) (v : AcName) : (h.setAC r v).pair = h.pair := rfl
@[simp] theorem Hart.setAC_det (r : Nat) (v : AcName) : (h.setAC r v).det = h.det := rfl
@[simp] theorem Hart.setAC_x (r : Nat) (v : AcName) : (h.setAC r v).x = h.x := rfl
@[simp] theorem Hart.setAC_own (r : Nat) (v : AcName) : (h.setAC r v).own = h.own := rfl
@[simp] theorem Hart.setAC_far (r : Nat) (v : AcName) : (h.setAC r v).far = h.far := rfl
@[simp] theorem Hart.setAC_m (r : Nat) (v : AcName) : (h.setAC r v).m = h.m := rfl
@[simp] theorem Hart.setAC_bs (r : Nat) (v : AcName) : (h.setAC r v).bs = h.bs := rfl
@[simp] theorem Hart.setAC_ap (r : Nat) (v : AcName) : (h.setAC r v).ap = h.ap := rfl
@[simp] theorem Hart.setAC_h (r : Nat) (v : AcName) : (h.setAC r v).h = h.h := rfl
@[simp] theorem Hart.setAC_retiring (r : Nat) (v : AcName) : (h.setAC r v).retiring = h.retiring := rfl
@[simp] theorem Hart.setAC_streams (r : Nat) (v : AcName) : (h.setAC r v).streams = h.streams := rfl
@[simp] theorem Hart.setAC_csr (r : Nat) (v : AcName) : (h.setAC r v).csr = h.csr := rfl
@[simp] theorem Hart.setAC_task (r : Nat) (v : AcName) : (h.setAC r v).task = h.task := rfl
@[simp] theorem Hart.setAC_bars (r : Nat) (v : AcName) : (h.setAC r v).bars = h.bars := rfl
@[simp] theorem Hart.setAC_lates (r : Nat) (v : AcName) : (h.setAC r v).lates = h.lates := rfl
@[simp] theorem Hart.setAC_promise (r : Nat) (v : AcName) : (h.setAC r v).promise = h.promise := rfl
@[simp] theorem Hart.setAC_counters (r : Nat) (v : AcName) : (h.setAC r v).counters = h.counters := rfl
@[simp] theorem Hart.setAC_fromXu (r : Nat) (v : AcName) : (h.setAC r v).fromXu = h.fromXu := rfl
@[simp] theorem Hart.setAC_waiting (r : Nat) (v : AcName) : (h.setAC r v).waiting = h.waiting := rfl
@[simp] theorem Hart.setAC_faulting (r : Nat) (v : AcName) : (h.setAC r v).faulting = h.faulting := rfl
@[simp] theorem Hart.setAC_fwEvent (r : Nat) (v : AcName) : (h.setAC r v).fwEvent = h.fwEvent := rfl
@[simp] theorem Hart.setAC_deadline (r : Nat) (v : AcName) : (h.setAC r v).deadline = h.deadline := rfl
@[simp] theorem Hart.setAC_launched (r : Nat) (v : AcName) : (h.setAC r v).launched = h.launched := rfl
@[simp] theorem Hart.setAC_acted (r : Nat) (v : AcName) : (h.setAC r v).acted = h.acted := rfl
@[simp] theorem Hart.setAC_ordered (r : Nat) (v : AcName) : (h.setAC r v).ordered = h.ordered := rfl
@[simp] theorem Hart.setAC_refetched (r : Nat) (v : AcName) : (h.setAC r v).refetched = h.refetched := rfl
@[simp] theorem Hart.setAC_loop (r : Nat) (v : AcName) : (h.setAC r v).loop = h.loop := rfl
@[simp] theorem Hart.setAC_landing (r : Nat) (v : AcName) : (h.setAC r v).landing = h.landing := rfl

@[simp] theorem Hart.setM_place (r : Nat) (v : MReg) : (h.setM r v).place = h.place := by unfold Hart.setM; split <;> rfl
@[simp] theorem Hart.setM_run (r : Nat) (v : MReg) : (h.setM r v).run = h.run := by unfold Hart.setM; split <;> rfl
@[simp] theorem Hart.setM_asid (r : Nat) (v : MReg) : (h.setM r v).asid = h.asid := by unfold Hart.setM; split <;> rfl
@[simp] theorem Hart.setM_pc (r : Nat) (v : MReg) : (h.setM r v).pc = h.pc := by unfold Hart.setM; split <;> rfl
@[simp] theorem Hart.setM_sequential (r : Nat) (v : MReg) : (h.setM r v).sequential = h.sequential := by unfold Hart.setM; split <;> rfl
@[simp] theorem Hart.setM_arrived (r : Nat) (v : MReg) : (h.setM r v).arrived = h.arrived := by unfold Hart.setM; split <;> rfl
@[simp] theorem Hart.setM_firmware (r : Nat) (v : MReg) : (h.setM r v).firmware = h.firmware := by unfold Hart.setM; split <;> rfl
@[simp] theorem Hart.setM_leader (r : Nat) (v : MReg) : (h.setM r v).leader = h.leader := by unfold Hart.setM; split <;> rfl
@[simp] theorem Hart.setM_pair (r : Nat) (v : MReg) : (h.setM r v).pair = h.pair := by unfold Hart.setM; split <;> rfl
@[simp] theorem Hart.setM_det (r : Nat) (v : MReg) : (h.setM r v).det = h.det := by unfold Hart.setM; split <;> rfl
@[simp] theorem Hart.setM_x (r : Nat) (v : MReg) : (h.setM r v).x = h.x := by unfold Hart.setM; split <;> rfl
@[simp] theorem Hart.setM_own (r : Nat) (v : MReg) : (h.setM r v).own = h.own := by unfold Hart.setM; split <;> rfl
@[simp] theorem Hart.setM_far (r : Nat) (v : MReg) : (h.setM r v).far = h.far := by unfold Hart.setM; split <;> rfl
@[simp] theorem Hart.setM_bs (r : Nat) (v : MReg) : (h.setM r v).bs = h.bs := by unfold Hart.setM; split <;> rfl
@[simp] theorem Hart.setM_ap (r : Nat) (v : MReg) : (h.setM r v).ap = h.ap := by unfold Hart.setM; split <;> rfl
@[simp] theorem Hart.setM_h (r : Nat) (v : MReg) : (h.setM r v).h = h.h := by unfold Hart.setM; split <;> rfl
@[simp] theorem Hart.setM_ac (r : Nat) (v : MReg) : (h.setM r v).ac = h.ac := by unfold Hart.setM; split <;> rfl
@[simp] theorem Hart.setM_retiring (r : Nat) (v : MReg) : (h.setM r v).retiring = h.retiring := by unfold Hart.setM; split <;> rfl
@[simp] theorem Hart.setM_streams (r : Nat) (v : MReg) : (h.setM r v).streams = h.streams := by unfold Hart.setM; split <;> rfl
@[simp] theorem Hart.setM_csr (r : Nat) (v : MReg) : (h.setM r v).csr = h.csr := by unfold Hart.setM; split <;> rfl
@[simp] theorem Hart.setM_task (r : Nat) (v : MReg) : (h.setM r v).task = h.task := by unfold Hart.setM; split <;> rfl
@[simp] theorem Hart.setM_bars (r : Nat) (v : MReg) : (h.setM r v).bars = h.bars := by unfold Hart.setM; split <;> rfl
@[simp] theorem Hart.setM_lates (r : Nat) (v : MReg) : (h.setM r v).lates = h.lates := by unfold Hart.setM; split <;> rfl
@[simp] theorem Hart.setM_promise (r : Nat) (v : MReg) : (h.setM r v).promise = h.promise := by unfold Hart.setM; split <;> rfl
@[simp] theorem Hart.setM_counters (r : Nat) (v : MReg) : (h.setM r v).counters = h.counters := by unfold Hart.setM; split <;> rfl
@[simp] theorem Hart.setM_fromXu (r : Nat) (v : MReg) : (h.setM r v).fromXu = h.fromXu := by unfold Hart.setM; split <;> rfl
@[simp] theorem Hart.setM_waiting (r : Nat) (v : MReg) : (h.setM r v).waiting = h.waiting := by unfold Hart.setM; split <;> rfl
@[simp] theorem Hart.setM_faulting (r : Nat) (v : MReg) : (h.setM r v).faulting = h.faulting := by unfold Hart.setM; split <;> rfl
@[simp] theorem Hart.setM_fwEvent (r : Nat) (v : MReg) : (h.setM r v).fwEvent = h.fwEvent := by unfold Hart.setM; split <;> rfl
@[simp] theorem Hart.setM_deadline (r : Nat) (v : MReg) : (h.setM r v).deadline = h.deadline := by unfold Hart.setM; split <;> rfl
@[simp] theorem Hart.setM_launched (r : Nat) (v : MReg) : (h.setM r v).launched = h.launched := by unfold Hart.setM; split <;> rfl
@[simp] theorem Hart.setM_acted (r : Nat) (v : MReg) : (h.setM r v).acted = h.acted := by unfold Hart.setM; split <;> rfl
@[simp] theorem Hart.setM_ordered (r : Nat) (v : MReg) : (h.setM r v).ordered = h.ordered := by unfold Hart.setM; split <;> rfl
@[simp] theorem Hart.setM_refetched (r : Nat) (v : MReg) : (h.setM r v).refetched = h.refetched := by unfold Hart.setM; split <;> rfl
@[simp] theorem Hart.setM_loop (r : Nat) (v : MReg) : (h.setM r v).loop = h.loop := by unfold Hart.setM; split <;> rfl
@[simp] theorem Hart.setM_landing (r : Nat) (v : MReg) : (h.setM r v).landing = h.landing := by unfold Hart.setM; split <;> rfl

end HartUpdates

section StateUpdates

variable (s : State)

@[simp] theorem State.setDie_hart (d : Nat) (v : Die) : (s.setDie d v).hart = s.hart := rfl
@[simp] theorem State.setDie_parked (d : Nat) (v : Die) : (s.setDie d v).parked = s.parked := rfl
@[simp] theorem State.setDie_agenda (d : Nat) (v : Die) : (s.setDie d v).agenda = s.agenda := rfl
@[simp] theorem State.setDie_arg (d : Nat) (v : Die) : (s.setDie d v).arg = s.arg := rfl
@[simp] theorem State.setDie_choices (d : Nat) (v : Die) : (s.setDie d v).choices = s.choices := rfl
@[simp] theorem State.setDie_mem (d : Nat) (v : Die) : (s.setDie d v).mem = s.mem := rfl
@[simp] theorem State.setDie_poison (d : Nat) (v : Die) : (s.setDie d v).poison = s.poison := rfl
@[simp] theorem State.setDie_pend (d : Nat) (v : Die) : (s.setDie d v).pend = s.pend := rfl
@[simp] theorem State.setDie_storeSeq (d : Nat) (v : Die) : (s.setDie d v).storeSeq = s.storeSeq := rfl
@[simp] theorem State.setDie_tags (d : Nat) (v : Die) : (s.setDie d v).tags = s.tags := rfl
@[simp] theorem State.setDie_tlb (d : Nat) (v : Die) : (s.setDie d v).tlb = s.tlb := rfl
@[simp] theorem State.setDie_fetched (d : Nat) (v : Die) : (s.setDie d v).fetched = s.fetched := rfl
@[simp] theorem State.setDie_readOnly (d : Nat) (v : Die) : (s.setDie d v).readOnly = s.readOnly := rfl
@[simp] theorem State.setDie_lanes (d : Nat) (v : Die) : (s.setDie d v).lanes = s.lanes := rfl
@[simp] theorem State.setDie_steps (d : Nat) (v : Die) : (s.setDie d v).steps = s.steps := rfl
@[simp] theorem State.setDie_cycle (d : Nat) (v : Die) : (s.setDie d v).cycle = s.cycle := rfl
@[simp] theorem State.setDie_ptbase (d : Nat) (v : Die) : (s.setDie d v).ptbase = s.ptbase := rfl
@[simp] theorem State.setDie_ptlog2 (d : Nat) (v : Die) : (s.setDie d v).ptlog2 = s.ptlog2 := rfl
@[simp] theorem State.setDie_trapEntry (d : Nat) (v : Die) : (s.setDie d v).trapEntry = s.trapEntry := rfl
@[simp] theorem State.setDie_slotCounters (d : Nat) (v : Die) : (s.setDie d v).slotCounters = s.slotCounters := rfl
@[simp] theorem State.setDie_cmds (d : Nat) (v : Die) : (s.setDie d v).cmds = s.cmds := rfl
@[simp] theorem State.setDie_sets (d : Nat) (v : Die) : (s.setDie d v).sets = s.sets := rfl
@[simp] theorem State.setDie_barriers (d : Nat) (v : Die) : (s.setDie d v).barriers = s.barriers := rfl
@[simp] theorem State.setDie_graphs (d : Nat) (v : Die) : (s.setDie d v).graphs = s.graphs := rfl
@[simp] theorem State.setDie_nextGraph (d : Nat) (v : Die) : (s.setDie d v).nextGraph = s.nextGraph := rfl
@[simp] theorem State.setDie_turns (d : Nat) (v : Die) : (s.setDie d v).turns = s.turns := rfl
@[simp] theorem State.setDie_dispWrites (d : Nat) (v : Die) : (s.setDie d v).dispWrites = s.dispWrites := rfl
@[simp] theorem State.setDie_arenas (d : Nat) (v : Die) : (s.setDie d v).arenas = s.arenas := rfl
@[simp] theorem State.setDie_exports (d : Nat) (v : Die) : (s.setDie d v).exports = s.exports := rfl
@[simp] theorem State.setDie_queues (d : Nat) (v : Die) : (s.setDie d v).queues = s.queues := rfl
@[simp] theorem State.setDie_assigned (d : Nat) (v : Die) : (s.setDie d v).assigned = s.assigned := rfl
@[simp] theorem State.setDie_bar2 (d : Nat) (v : Die) : (s.setDie d v).bar2 = s.bar2 := rfl
@[simp] theorem State.setDie_replicas (d : Nat) (v : Die) : (s.setDie d v).replicas = s.replicas := rfl
@[simp] theorem State.setDie_routes (d : Nat) (v : Die) : (s.setDie d v).routes = s.routes := rfl
@[simp] theorem State.setDie_grants (d : Nat) (v : Die) : (s.setDie d v).grants = s.grants := rfl
@[simp] theorem State.setDie_marks (d : Nat) (v : Die) : (s.setDie d v).marks = s.marks := rfl
@[simp] theorem State.setDie_ports (d : Nat) (v : Die) : (s.setDie d v).ports = s.ports := rfl
@[simp] theorem State.setDie_registers (d : Nat) (v : Die) : (s.setDie d v).registers = s.registers := rfl
@[simp] theorem State.setDie_symbols (d : Nat) (v : Die) : (s.setDie d v).symbols = s.symbols := rfl
@[simp] theorem State.setDie_objects (d : Nat) (v : Die) : (s.setDie d v).objects = s.objects := rfl
@[simp] theorem State.setDie_hostData (d : Nat) (v : Die) : (s.setDie d v).hostData = s.hostData := rfl
@[simp] theorem State.setDie_hostErrors (d : Nat) (v : Die) : (s.setDie d v).hostErrors = s.hostErrors := rfl
@[simp] theorem State.setDie_peerData (d : Nat) (v : Die) : (s.setDie d v).peerData = s.peerData := rfl
@[simp] theorem State.setDie_bootFailed (d : Nat) (v : Die) : (s.setDie d v).bootFailed = s.bootFailed := rfl
@[simp] theorem State.setDie_dumps (d : Nat) (v : Die) : (s.setDie d v).dumps = s.dumps := rfl
@[simp] theorem State.setDie_fatal (d : Nat) (v : Die) : (s.setDie d v).fatal = s.fatal := rfl

@[simp] theorem State.waitAt_parked (i : Instr) : (s.waitAt i).parked = s.parked := rfl
@[simp] theorem State.waitAt_agenda (i : Instr) : (s.waitAt i).agenda = s.agenda := rfl
@[simp] theorem State.waitAt_arg (i : Instr) : (s.waitAt i).arg = s.arg := rfl
@[simp] theorem State.waitAt_choices (i : Instr) : (s.waitAt i).choices = s.choices := rfl
@[simp] theorem State.waitAt_mem (i : Instr) : (s.waitAt i).mem = s.mem := rfl
@[simp] theorem State.waitAt_poison (i : Instr) : (s.waitAt i).poison = s.poison := rfl
@[simp] theorem State.waitAt_pend (i : Instr) : (s.waitAt i).pend = s.pend := rfl
@[simp] theorem State.waitAt_storeSeq (i : Instr) : (s.waitAt i).storeSeq = s.storeSeq := rfl
@[simp] theorem State.waitAt_tags (i : Instr) : (s.waitAt i).tags = s.tags := rfl
@[simp] theorem State.waitAt_tlb (i : Instr) : (s.waitAt i).tlb = s.tlb := rfl
@[simp] theorem State.waitAt_fetched (i : Instr) : (s.waitAt i).fetched = s.fetched := rfl
@[simp] theorem State.waitAt_readOnly (i : Instr) : (s.waitAt i).readOnly = s.readOnly := rfl
@[simp] theorem State.waitAt_lanes (i : Instr) : (s.waitAt i).lanes = s.lanes := rfl
@[simp] theorem State.waitAt_steps (i : Instr) : (s.waitAt i).steps = s.steps := rfl
@[simp] theorem State.waitAt_cycle (i : Instr) : (s.waitAt i).cycle = s.cycle := rfl
@[simp] theorem State.waitAt_ptbase (i : Instr) : (s.waitAt i).ptbase = s.ptbase := rfl
@[simp] theorem State.waitAt_ptlog2 (i : Instr) : (s.waitAt i).ptlog2 = s.ptlog2 := rfl
@[simp] theorem State.waitAt_trapEntry (i : Instr) : (s.waitAt i).trapEntry = s.trapEntry := rfl
@[simp] theorem State.waitAt_slotCounters (i : Instr) : (s.waitAt i).slotCounters = s.slotCounters := rfl
@[simp] theorem State.waitAt_dies (i : Instr) : (s.waitAt i).dies = s.dies := rfl
@[simp] theorem State.waitAt_cmds (i : Instr) : (s.waitAt i).cmds = s.cmds := rfl
@[simp] theorem State.waitAt_sets (i : Instr) : (s.waitAt i).sets = s.sets := rfl
@[simp] theorem State.waitAt_barriers (i : Instr) : (s.waitAt i).barriers = s.barriers := rfl
@[simp] theorem State.waitAt_graphs (i : Instr) : (s.waitAt i).graphs = s.graphs := rfl
@[simp] theorem State.waitAt_nextGraph (i : Instr) : (s.waitAt i).nextGraph = s.nextGraph := rfl
@[simp] theorem State.waitAt_turns (i : Instr) : (s.waitAt i).turns = s.turns := rfl
@[simp] theorem State.waitAt_dispWrites (i : Instr) : (s.waitAt i).dispWrites = s.dispWrites := rfl
@[simp] theorem State.waitAt_arenas (i : Instr) : (s.waitAt i).arenas = s.arenas := rfl
@[simp] theorem State.waitAt_exports (i : Instr) : (s.waitAt i).exports = s.exports := rfl
@[simp] theorem State.waitAt_queues (i : Instr) : (s.waitAt i).queues = s.queues := rfl
@[simp] theorem State.waitAt_assigned (i : Instr) : (s.waitAt i).assigned = s.assigned := rfl
@[simp] theorem State.waitAt_bar2 (i : Instr) : (s.waitAt i).bar2 = s.bar2 := rfl
@[simp] theorem State.waitAt_replicas (i : Instr) : (s.waitAt i).replicas = s.replicas := rfl
@[simp] theorem State.waitAt_routes (i : Instr) : (s.waitAt i).routes = s.routes := rfl
@[simp] theorem State.waitAt_grants (i : Instr) : (s.waitAt i).grants = s.grants := rfl
@[simp] theorem State.waitAt_marks (i : Instr) : (s.waitAt i).marks = s.marks := rfl
@[simp] theorem State.waitAt_ports (i : Instr) : (s.waitAt i).ports = s.ports := rfl
@[simp] theorem State.waitAt_registers (i : Instr) : (s.waitAt i).registers = s.registers := rfl
@[simp] theorem State.waitAt_symbols (i : Instr) : (s.waitAt i).symbols = s.symbols := rfl
@[simp] theorem State.waitAt_objects (i : Instr) : (s.waitAt i).objects = s.objects := rfl
@[simp] theorem State.waitAt_hostData (i : Instr) : (s.waitAt i).hostData = s.hostData := rfl
@[simp] theorem State.waitAt_hostErrors (i : Instr) : (s.waitAt i).hostErrors = s.hostErrors := rfl
@[simp] theorem State.waitAt_peerData (i : Instr) : (s.waitAt i).peerData = s.peerData := rfl
@[simp] theorem State.waitAt_bootFailed (i : Instr) : (s.waitAt i).bootFailed = s.bootFailed := rfl
@[simp] theorem State.waitAt_dumps (i : Instr) : (s.waitAt i).dumps = s.dumps := rfl
@[simp] theorem State.waitAt_fatal (i : Instr) : (s.waitAt i).fatal = s.fatal := rfl

@[simp] theorem State.complete_parked (f : Flow) : (s.complete f).parked = s.parked := by cases f <;> rfl
@[simp] theorem State.complete_agenda (f : Flow) : (s.complete f).agenda = s.agenda := by cases f <;> rfl
@[simp] theorem State.complete_arg (f : Flow) : (s.complete f).arg = s.arg := by cases f <;> rfl
@[simp] theorem State.complete_choices (f : Flow) : (s.complete f).choices = s.choices := by cases f <;> rfl
@[simp] theorem State.complete_mem (f : Flow) : (s.complete f).mem = s.mem := by cases f <;> rfl
@[simp] theorem State.complete_poison (f : Flow) : (s.complete f).poison = s.poison := by cases f <;> rfl
@[simp] theorem State.complete_pend (f : Flow) : (s.complete f).pend = s.pend := by cases f <;> rfl
@[simp] theorem State.complete_storeSeq (f : Flow) : (s.complete f).storeSeq = s.storeSeq := by cases f <;> rfl
@[simp] theorem State.complete_tags (f : Flow) : (s.complete f).tags = s.tags := by cases f <;> rfl
@[simp] theorem State.complete_tlb (f : Flow) : (s.complete f).tlb = s.tlb := by cases f <;> rfl
@[simp] theorem State.complete_fetched (f : Flow) : (s.complete f).fetched = s.fetched := by cases f <;> rfl
@[simp] theorem State.complete_readOnly (f : Flow) : (s.complete f).readOnly = s.readOnly := by cases f <;> rfl
@[simp] theorem State.complete_lanes (f : Flow) : (s.complete f).lanes = s.lanes := by cases f <;> rfl
@[simp] theorem State.complete_steps (f : Flow) : (s.complete f).steps = s.steps := by cases f <;> rfl
@[simp] theorem State.complete_cycle (f : Flow) : (s.complete f).cycle = s.cycle := by cases f <;> rfl
@[simp] theorem State.complete_ptbase (f : Flow) : (s.complete f).ptbase = s.ptbase := by cases f <;> rfl
@[simp] theorem State.complete_ptlog2 (f : Flow) : (s.complete f).ptlog2 = s.ptlog2 := by cases f <;> rfl
@[simp] theorem State.complete_trapEntry (f : Flow) : (s.complete f).trapEntry = s.trapEntry := by cases f <;> rfl
@[simp] theorem State.complete_slotCounters (f : Flow) : (s.complete f).slotCounters = s.slotCounters := by cases f <;> rfl
@[simp] theorem State.complete_dies (f : Flow) : (s.complete f).dies = s.dies := by cases f <;> rfl
@[simp] theorem State.complete_cmds (f : Flow) : (s.complete f).cmds = s.cmds := by cases f <;> rfl
@[simp] theorem State.complete_sets (f : Flow) : (s.complete f).sets = s.sets := by cases f <;> rfl
@[simp] theorem State.complete_barriers (f : Flow) : (s.complete f).barriers = s.barriers := by cases f <;> rfl
@[simp] theorem State.complete_graphs (f : Flow) : (s.complete f).graphs = s.graphs := by cases f <;> rfl
@[simp] theorem State.complete_nextGraph (f : Flow) : (s.complete f).nextGraph = s.nextGraph := by cases f <;> rfl
@[simp] theorem State.complete_turns (f : Flow) : (s.complete f).turns = s.turns := by cases f <;> rfl
@[simp] theorem State.complete_dispWrites (f : Flow) : (s.complete f).dispWrites = s.dispWrites := by cases f <;> rfl
@[simp] theorem State.complete_arenas (f : Flow) : (s.complete f).arenas = s.arenas := by cases f <;> rfl
@[simp] theorem State.complete_exports (f : Flow) : (s.complete f).exports = s.exports := by cases f <;> rfl
@[simp] theorem State.complete_queues (f : Flow) : (s.complete f).queues = s.queues := by cases f <;> rfl
@[simp] theorem State.complete_assigned (f : Flow) : (s.complete f).assigned = s.assigned := by cases f <;> rfl
@[simp] theorem State.complete_bar2 (f : Flow) : (s.complete f).bar2 = s.bar2 := by cases f <;> rfl
@[simp] theorem State.complete_replicas (f : Flow) : (s.complete f).replicas = s.replicas := by cases f <;> rfl
@[simp] theorem State.complete_routes (f : Flow) : (s.complete f).routes = s.routes := by cases f <;> rfl
@[simp] theorem State.complete_grants (f : Flow) : (s.complete f).grants = s.grants := by cases f <;> rfl
@[simp] theorem State.complete_marks (f : Flow) : (s.complete f).marks = s.marks := by cases f <;> rfl
@[simp] theorem State.complete_ports (f : Flow) : (s.complete f).ports = s.ports := by cases f <;> rfl
@[simp] theorem State.complete_registers (f : Flow) : (s.complete f).registers = s.registers := by cases f <;> rfl
@[simp] theorem State.complete_symbols (f : Flow) : (s.complete f).symbols = s.symbols := by cases f <;> rfl
@[simp] theorem State.complete_objects (f : Flow) : (s.complete f).objects = s.objects := by cases f <;> rfl
@[simp] theorem State.complete_hostData (f : Flow) : (s.complete f).hostData = s.hostData := by cases f <;> rfl
@[simp] theorem State.complete_hostErrors (f : Flow) : (s.complete f).hostErrors = s.hostErrors := by cases f <;> rfl
@[simp] theorem State.complete_peerData (f : Flow) : (s.complete f).peerData = s.peerData := by cases f <;> rfl
@[simp] theorem State.complete_bootFailed (f : Flow) : (s.complete f).bootFailed = s.bootFailed := by cases f <;> rfl
@[simp] theorem State.complete_dumps (f : Flow) : (s.complete f).dumps = s.dumps := by cases f <;> rfl
@[simp] theorem State.complete_fatal (f : Flow) : (s.complete f).fatal = s.fatal := by cases f <;> rfl

@[simp] theorem State.takeTrap_parked (t : Trap) : (s.takeTrap t).parked = s.parked := by unfold State.takeTrap; dsimp only; (repeat' split) <;> rfl
@[simp] theorem State.takeTrap_agenda (t : Trap) : (s.takeTrap t).agenda = s.agenda := by unfold State.takeTrap; dsimp only; (repeat' split) <;> rfl
@[simp] theorem State.takeTrap_arg (t : Trap) : (s.takeTrap t).arg = s.arg := by unfold State.takeTrap; dsimp only; (repeat' split) <;> rfl
@[simp] theorem State.takeTrap_choices (t : Trap) : (s.takeTrap t).choices = s.choices := by unfold State.takeTrap; dsimp only; (repeat' split) <;> rfl
@[simp] theorem State.takeTrap_mem (t : Trap) : (s.takeTrap t).mem = s.mem := by unfold State.takeTrap; dsimp only; (repeat' split) <;> rfl
@[simp] theorem State.takeTrap_poison (t : Trap) : (s.takeTrap t).poison = s.poison := by unfold State.takeTrap; dsimp only; (repeat' split) <;> rfl
@[simp] theorem State.takeTrap_pend (t : Trap) : (s.takeTrap t).pend = s.pend := by unfold State.takeTrap; dsimp only; (repeat' split) <;> rfl
@[simp] theorem State.takeTrap_storeSeq (t : Trap) : (s.takeTrap t).storeSeq = s.storeSeq := by unfold State.takeTrap; dsimp only; (repeat' split) <;> rfl
@[simp] theorem State.takeTrap_tags (t : Trap) : (s.takeTrap t).tags = s.tags := by unfold State.takeTrap; dsimp only; (repeat' split) <;> rfl
@[simp] theorem State.takeTrap_fetched (t : Trap) : (s.takeTrap t).fetched = s.fetched := by unfold State.takeTrap; dsimp only; (repeat' split) <;> rfl
@[simp] theorem State.takeTrap_readOnly (t : Trap) : (s.takeTrap t).readOnly = s.readOnly := by unfold State.takeTrap; dsimp only; (repeat' split) <;> rfl
@[simp] theorem State.takeTrap_lanes (t : Trap) : (s.takeTrap t).lanes = s.lanes := by unfold State.takeTrap; dsimp only; (repeat' split) <;> rfl
@[simp] theorem State.takeTrap_steps (t : Trap) : (s.takeTrap t).steps = s.steps := by unfold State.takeTrap; dsimp only; (repeat' split) <;> rfl
@[simp] theorem State.takeTrap_cycle (t : Trap) : (s.takeTrap t).cycle = s.cycle := by unfold State.takeTrap; dsimp only; (repeat' split) <;> rfl
@[simp] theorem State.takeTrap_ptbase (t : Trap) : (s.takeTrap t).ptbase = s.ptbase := by unfold State.takeTrap; dsimp only; (repeat' split) <;> rfl
@[simp] theorem State.takeTrap_ptlog2 (t : Trap) : (s.takeTrap t).ptlog2 = s.ptlog2 := by unfold State.takeTrap; dsimp only; (repeat' split) <;> rfl
@[simp] theorem State.takeTrap_trapEntry (t : Trap) : (s.takeTrap t).trapEntry = s.trapEntry := by unfold State.takeTrap; dsimp only; (repeat' split) <;> rfl
@[simp] theorem State.takeTrap_slotCounters (t : Trap) : (s.takeTrap t).slotCounters = s.slotCounters := by unfold State.takeTrap; dsimp only; (repeat' split) <;> rfl
@[simp] theorem State.takeTrap_dies (t : Trap) : (s.takeTrap t).dies = s.dies := by unfold State.takeTrap; dsimp only; (repeat' split) <;> rfl
@[simp] theorem State.takeTrap_cmds (t : Trap) : (s.takeTrap t).cmds = s.cmds := by unfold State.takeTrap; dsimp only; (repeat' split) <;> rfl
@[simp] theorem State.takeTrap_sets (t : Trap) : (s.takeTrap t).sets = s.sets := by unfold State.takeTrap; dsimp only; (repeat' split) <;> rfl
@[simp] theorem State.takeTrap_barriers (t : Trap) : (s.takeTrap t).barriers = s.barriers := by unfold State.takeTrap; dsimp only; (repeat' split) <;> rfl
@[simp] theorem State.takeTrap_graphs (t : Trap) : (s.takeTrap t).graphs = s.graphs := by unfold State.takeTrap; dsimp only; (repeat' split) <;> rfl
@[simp] theorem State.takeTrap_nextGraph (t : Trap) : (s.takeTrap t).nextGraph = s.nextGraph := by unfold State.takeTrap; dsimp only; (repeat' split) <;> rfl
@[simp] theorem State.takeTrap_turns (t : Trap) : (s.takeTrap t).turns = s.turns := by unfold State.takeTrap; dsimp only; (repeat' split) <;> rfl
@[simp] theorem State.takeTrap_dispWrites (t : Trap) : (s.takeTrap t).dispWrites = s.dispWrites := by unfold State.takeTrap; dsimp only; (repeat' split) <;> rfl
@[simp] theorem State.takeTrap_arenas (t : Trap) : (s.takeTrap t).arenas = s.arenas := by unfold State.takeTrap; dsimp only; (repeat' split) <;> rfl
@[simp] theorem State.takeTrap_exports (t : Trap) : (s.takeTrap t).exports = s.exports := by unfold State.takeTrap; dsimp only; (repeat' split) <;> rfl
@[simp] theorem State.takeTrap_queues (t : Trap) : (s.takeTrap t).queues = s.queues := by unfold State.takeTrap; dsimp only; (repeat' split) <;> rfl
@[simp] theorem State.takeTrap_assigned (t : Trap) : (s.takeTrap t).assigned = s.assigned := by unfold State.takeTrap; dsimp only; (repeat' split) <;> rfl
@[simp] theorem State.takeTrap_bar2 (t : Trap) : (s.takeTrap t).bar2 = s.bar2 := by unfold State.takeTrap; dsimp only; (repeat' split) <;> rfl
@[simp] theorem State.takeTrap_replicas (t : Trap) : (s.takeTrap t).replicas = s.replicas := by unfold State.takeTrap; dsimp only; (repeat' split) <;> rfl
@[simp] theorem State.takeTrap_routes (t : Trap) : (s.takeTrap t).routes = s.routes := by unfold State.takeTrap; dsimp only; (repeat' split) <;> rfl
@[simp] theorem State.takeTrap_grants (t : Trap) : (s.takeTrap t).grants = s.grants := by unfold State.takeTrap; dsimp only; (repeat' split) <;> rfl
@[simp] theorem State.takeTrap_marks (t : Trap) : (s.takeTrap t).marks = s.marks := by unfold State.takeTrap; dsimp only; (repeat' split) <;> rfl
@[simp] theorem State.takeTrap_ports (t : Trap) : (s.takeTrap t).ports = s.ports := by unfold State.takeTrap; dsimp only; (repeat' split) <;> rfl
@[simp] theorem State.takeTrap_registers (t : Trap) : (s.takeTrap t).registers = s.registers := by unfold State.takeTrap; dsimp only; (repeat' split) <;> rfl
@[simp] theorem State.takeTrap_symbols (t : Trap) : (s.takeTrap t).symbols = s.symbols := by unfold State.takeTrap; dsimp only; (repeat' split) <;> rfl
@[simp] theorem State.takeTrap_objects (t : Trap) : (s.takeTrap t).objects = s.objects := by unfold State.takeTrap; dsimp only; (repeat' split) <;> rfl
@[simp] theorem State.takeTrap_hostData (t : Trap) : (s.takeTrap t).hostData = s.hostData := by unfold State.takeTrap; dsimp only; (repeat' split) <;> rfl
@[simp] theorem State.takeTrap_hostErrors (t : Trap) : (s.takeTrap t).hostErrors = s.hostErrors := by unfold State.takeTrap; dsimp only; (repeat' split) <;> rfl
@[simp] theorem State.takeTrap_peerData (t : Trap) : (s.takeTrap t).peerData = s.peerData := by unfold State.takeTrap; dsimp only; (repeat' split) <;> rfl
@[simp] theorem State.takeTrap_bootFailed (t : Trap) : (s.takeTrap t).bootFailed = s.bootFailed := by unfold State.takeTrap; dsimp only; (repeat' split) <;> rfl
@[simp] theorem State.takeTrap_dumps (t : Trap) : (s.takeTrap t).dumps = s.dumps := by unfold State.takeTrap; dsimp only; (repeat' split) <;> rfl

@[simp] theorem State.acquire_parked (scope : Nat) : (s.acquire scope).parked = s.parked := by unfold State.acquire; split <;> rfl
@[simp] theorem State.acquire_agenda (scope : Nat) : (s.acquire scope).agenda = s.agenda := by unfold State.acquire; split <;> rfl
@[simp] theorem State.acquire_arg (scope : Nat) : (s.acquire scope).arg = s.arg := by unfold State.acquire; split <;> rfl
@[simp] theorem State.acquire_choices (scope : Nat) : (s.acquire scope).choices = s.choices := by unfold State.acquire; split <;> rfl
@[simp] theorem State.acquire_mem (scope : Nat) : (s.acquire scope).mem = s.mem := by unfold State.acquire; split <;> rfl
@[simp] theorem State.acquire_poison (scope : Nat) : (s.acquire scope).poison = s.poison := by unfold State.acquire; split <;> rfl
@[simp] theorem State.acquire_pend (scope : Nat) : (s.acquire scope).pend = s.pend := by unfold State.acquire; split <;> rfl
@[simp] theorem State.acquire_storeSeq (scope : Nat) : (s.acquire scope).storeSeq = s.storeSeq := by unfold State.acquire; split <;> rfl
@[simp] theorem State.acquire_tags (scope : Nat) : (s.acquire scope).tags = s.tags := by unfold State.acquire; split <;> rfl
@[simp] theorem State.acquire_tlb (scope : Nat) : (s.acquire scope).tlb = s.tlb := by unfold State.acquire; split <;> rfl
@[simp] theorem State.acquire_fetched (scope : Nat) : (s.acquire scope).fetched = s.fetched := by unfold State.acquire; split <;> rfl
@[simp] theorem State.acquire_readOnly (scope : Nat) : (s.acquire scope).readOnly = s.readOnly := by unfold State.acquire; split <;> rfl
@[simp] theorem State.acquire_lanes (scope : Nat) : (s.acquire scope).lanes = s.lanes := by unfold State.acquire; split <;> rfl
@[simp] theorem State.acquire_steps (scope : Nat) : (s.acquire scope).steps = s.steps := by unfold State.acquire; split <;> rfl
@[simp] theorem State.acquire_cycle (scope : Nat) : (s.acquire scope).cycle = s.cycle := by unfold State.acquire; split <;> rfl
@[simp] theorem State.acquire_ptbase (scope : Nat) : (s.acquire scope).ptbase = s.ptbase := by unfold State.acquire; split <;> rfl
@[simp] theorem State.acquire_ptlog2 (scope : Nat) : (s.acquire scope).ptlog2 = s.ptlog2 := by unfold State.acquire; split <;> rfl
@[simp] theorem State.acquire_trapEntry (scope : Nat) : (s.acquire scope).trapEntry = s.trapEntry := by unfold State.acquire; split <;> rfl
@[simp] theorem State.acquire_slotCounters (scope : Nat) : (s.acquire scope).slotCounters = s.slotCounters := by unfold State.acquire; split <;> rfl
@[simp] theorem State.acquire_dies (scope : Nat) : (s.acquire scope).dies = s.dies := by unfold State.acquire; split <;> rfl
@[simp] theorem State.acquire_cmds (scope : Nat) : (s.acquire scope).cmds = s.cmds := by unfold State.acquire; split <;> rfl
@[simp] theorem State.acquire_sets (scope : Nat) : (s.acquire scope).sets = s.sets := by unfold State.acquire; split <;> rfl
@[simp] theorem State.acquire_barriers (scope : Nat) : (s.acquire scope).barriers = s.barriers := by unfold State.acquire; split <;> rfl
@[simp] theorem State.acquire_graphs (scope : Nat) : (s.acquire scope).graphs = s.graphs := by unfold State.acquire; split <;> rfl
@[simp] theorem State.acquire_nextGraph (scope : Nat) : (s.acquire scope).nextGraph = s.nextGraph := by unfold State.acquire; split <;> rfl
@[simp] theorem State.acquire_turns (scope : Nat) : (s.acquire scope).turns = s.turns := by unfold State.acquire; split <;> rfl
@[simp] theorem State.acquire_dispWrites (scope : Nat) : (s.acquire scope).dispWrites = s.dispWrites := by unfold State.acquire; split <;> rfl
@[simp] theorem State.acquire_arenas (scope : Nat) : (s.acquire scope).arenas = s.arenas := by unfold State.acquire; split <;> rfl
@[simp] theorem State.acquire_exports (scope : Nat) : (s.acquire scope).exports = s.exports := by unfold State.acquire; split <;> rfl
@[simp] theorem State.acquire_queues (scope : Nat) : (s.acquire scope).queues = s.queues := by unfold State.acquire; split <;> rfl
@[simp] theorem State.acquire_assigned (scope : Nat) : (s.acquire scope).assigned = s.assigned := by unfold State.acquire; split <;> rfl
@[simp] theorem State.acquire_bar2 (scope : Nat) : (s.acquire scope).bar2 = s.bar2 := by unfold State.acquire; split <;> rfl
@[simp] theorem State.acquire_replicas (scope : Nat) : (s.acquire scope).replicas = s.replicas := by unfold State.acquire; split <;> rfl
@[simp] theorem State.acquire_routes (scope : Nat) : (s.acquire scope).routes = s.routes := by unfold State.acquire; split <;> rfl
@[simp] theorem State.acquire_grants (scope : Nat) : (s.acquire scope).grants = s.grants := by unfold State.acquire; split <;> rfl
@[simp] theorem State.acquire_marks (scope : Nat) : (s.acquire scope).marks = s.marks := by unfold State.acquire; split <;> rfl
@[simp] theorem State.acquire_ports (scope : Nat) : (s.acquire scope).ports = s.ports := by unfold State.acquire; split <;> rfl
@[simp] theorem State.acquire_registers (scope : Nat) : (s.acquire scope).registers = s.registers := by unfold State.acquire; split <;> rfl
@[simp] theorem State.acquire_symbols (scope : Nat) : (s.acquire scope).symbols = s.symbols := by unfold State.acquire; split <;> rfl
@[simp] theorem State.acquire_objects (scope : Nat) : (s.acquire scope).objects = s.objects := by unfold State.acquire; split <;> rfl
@[simp] theorem State.acquire_hostData (scope : Nat) : (s.acquire scope).hostData = s.hostData := by unfold State.acquire; split <;> rfl
@[simp] theorem State.acquire_hostErrors (scope : Nat) : (s.acquire scope).hostErrors = s.hostErrors := by unfold State.acquire; split <;> rfl
@[simp] theorem State.acquire_peerData (scope : Nat) : (s.acquire scope).peerData = s.peerData := by unfold State.acquire; split <;> rfl
@[simp] theorem State.acquire_bootFailed (scope : Nat) : (s.acquire scope).bootFailed = s.bootFailed := by unfold State.acquire; split <;> rfl
@[simp] theorem State.acquire_dumps (scope : Nat) : (s.acquire scope).dumps = s.dumps := by unfold State.acquire; split <;> rfl
@[simp] theorem State.acquire_fatal (scope : Nat) : (s.acquire scope).fatal = s.fatal := by unfold State.acquire; split <;> rfl

@[simp] theorem State.markWrite_hart (pa n : Nat) (poisoned : Bool) : (s.markWrite pa n poisoned).hart = s.hart := rfl
@[simp] theorem State.markWrite_parked (pa n : Nat) (poisoned : Bool) : (s.markWrite pa n poisoned).parked = s.parked := rfl
@[simp] theorem State.markWrite_agenda (pa n : Nat) (poisoned : Bool) : (s.markWrite pa n poisoned).agenda = s.agenda := rfl
@[simp] theorem State.markWrite_arg (pa n : Nat) (poisoned : Bool) : (s.markWrite pa n poisoned).arg = s.arg := rfl
@[simp] theorem State.markWrite_choices (pa n : Nat) (poisoned : Bool) : (s.markWrite pa n poisoned).choices = s.choices := rfl
@[simp] theorem State.markWrite_mem (pa n : Nat) (poisoned : Bool) : (s.markWrite pa n poisoned).mem = s.mem := rfl
@[simp] theorem State.markWrite_pend (pa n : Nat) (poisoned : Bool) : (s.markWrite pa n poisoned).pend = s.pend := rfl
@[simp] theorem State.markWrite_storeSeq (pa n : Nat) (poisoned : Bool) : (s.markWrite pa n poisoned).storeSeq = s.storeSeq := rfl
@[simp] theorem State.markWrite_tags (pa n : Nat) (poisoned : Bool) : (s.markWrite pa n poisoned).tags = s.tags := rfl
@[simp] theorem State.markWrite_tlb (pa n : Nat) (poisoned : Bool) : (s.markWrite pa n poisoned).tlb = s.tlb := rfl
@[simp] theorem State.markWrite_fetched (pa n : Nat) (poisoned : Bool) : (s.markWrite pa n poisoned).fetched = s.fetched := rfl
@[simp] theorem State.markWrite_readOnly (pa n : Nat) (poisoned : Bool) : (s.markWrite pa n poisoned).readOnly = s.readOnly := rfl
@[simp] theorem State.markWrite_lanes (pa n : Nat) (poisoned : Bool) : (s.markWrite pa n poisoned).lanes = s.lanes := rfl
@[simp] theorem State.markWrite_steps (pa n : Nat) (poisoned : Bool) : (s.markWrite pa n poisoned).steps = s.steps := rfl
@[simp] theorem State.markWrite_cycle (pa n : Nat) (poisoned : Bool) : (s.markWrite pa n poisoned).cycle = s.cycle := rfl
@[simp] theorem State.markWrite_ptbase (pa n : Nat) (poisoned : Bool) : (s.markWrite pa n poisoned).ptbase = s.ptbase := rfl
@[simp] theorem State.markWrite_ptlog2 (pa n : Nat) (poisoned : Bool) : (s.markWrite pa n poisoned).ptlog2 = s.ptlog2 := rfl
@[simp] theorem State.markWrite_trapEntry (pa n : Nat) (poisoned : Bool) : (s.markWrite pa n poisoned).trapEntry = s.trapEntry := rfl
@[simp] theorem State.markWrite_slotCounters (pa n : Nat) (poisoned : Bool) : (s.markWrite pa n poisoned).slotCounters = s.slotCounters := rfl
@[simp] theorem State.markWrite_dies (pa n : Nat) (poisoned : Bool) : (s.markWrite pa n poisoned).dies = s.dies := rfl
@[simp] theorem State.markWrite_cmds (pa n : Nat) (poisoned : Bool) : (s.markWrite pa n poisoned).cmds = s.cmds := rfl
@[simp] theorem State.markWrite_sets (pa n : Nat) (poisoned : Bool) : (s.markWrite pa n poisoned).sets = s.sets := rfl
@[simp] theorem State.markWrite_barriers (pa n : Nat) (poisoned : Bool) : (s.markWrite pa n poisoned).barriers = s.barriers := rfl
@[simp] theorem State.markWrite_graphs (pa n : Nat) (poisoned : Bool) : (s.markWrite pa n poisoned).graphs = s.graphs := rfl
@[simp] theorem State.markWrite_nextGraph (pa n : Nat) (poisoned : Bool) : (s.markWrite pa n poisoned).nextGraph = s.nextGraph := rfl
@[simp] theorem State.markWrite_turns (pa n : Nat) (poisoned : Bool) : (s.markWrite pa n poisoned).turns = s.turns := rfl
@[simp] theorem State.markWrite_dispWrites (pa n : Nat) (poisoned : Bool) : (s.markWrite pa n poisoned).dispWrites = s.dispWrites := rfl
@[simp] theorem State.markWrite_arenas (pa n : Nat) (poisoned : Bool) : (s.markWrite pa n poisoned).arenas = s.arenas := rfl
@[simp] theorem State.markWrite_exports (pa n : Nat) (poisoned : Bool) : (s.markWrite pa n poisoned).exports = s.exports := rfl
@[simp] theorem State.markWrite_queues (pa n : Nat) (poisoned : Bool) : (s.markWrite pa n poisoned).queues = s.queues := rfl
@[simp] theorem State.markWrite_assigned (pa n : Nat) (poisoned : Bool) : (s.markWrite pa n poisoned).assigned = s.assigned := rfl
@[simp] theorem State.markWrite_bar2 (pa n : Nat) (poisoned : Bool) : (s.markWrite pa n poisoned).bar2 = s.bar2 := rfl
@[simp] theorem State.markWrite_replicas (pa n : Nat) (poisoned : Bool) : (s.markWrite pa n poisoned).replicas = s.replicas := rfl
@[simp] theorem State.markWrite_routes (pa n : Nat) (poisoned : Bool) : (s.markWrite pa n poisoned).routes = s.routes := rfl
@[simp] theorem State.markWrite_grants (pa n : Nat) (poisoned : Bool) : (s.markWrite pa n poisoned).grants = s.grants := rfl
@[simp] theorem State.markWrite_marks (pa n : Nat) (poisoned : Bool) : (s.markWrite pa n poisoned).marks = s.marks := rfl
@[simp] theorem State.markWrite_ports (pa n : Nat) (poisoned : Bool) : (s.markWrite pa n poisoned).ports = s.ports := rfl
@[simp] theorem State.markWrite_registers (pa n : Nat) (poisoned : Bool) : (s.markWrite pa n poisoned).registers = s.registers := rfl
@[simp] theorem State.markWrite_symbols (pa n : Nat) (poisoned : Bool) : (s.markWrite pa n poisoned).symbols = s.symbols := rfl
@[simp] theorem State.markWrite_objects (pa n : Nat) (poisoned : Bool) : (s.markWrite pa n poisoned).objects = s.objects := rfl
@[simp] theorem State.markWrite_hostData (pa n : Nat) (poisoned : Bool) : (s.markWrite pa n poisoned).hostData = s.hostData := rfl
@[simp] theorem State.markWrite_hostErrors (pa n : Nat) (poisoned : Bool) : (s.markWrite pa n poisoned).hostErrors = s.hostErrors := rfl
@[simp] theorem State.markWrite_peerData (pa n : Nat) (poisoned : Bool) : (s.markWrite pa n poisoned).peerData = s.peerData := rfl
@[simp] theorem State.markWrite_bootFailed (pa n : Nat) (poisoned : Bool) : (s.markWrite pa n poisoned).bootFailed = s.bootFailed := rfl
@[simp] theorem State.markWrite_dumps (pa n : Nat) (poisoned : Bool) : (s.markWrite pa n poisoned).dumps = s.dumps := rfl
@[simp] theorem State.markWrite_fatal (pa n : Nat) (poisoned : Bool) : (s.markWrite pa n poisoned).fatal = s.fatal := rfl

@[simp] theorem State.addPending_hart (p : PendStore) : (s.addPending p).hart = s.hart := rfl
@[simp] theorem State.addPending_parked (p : PendStore) : (s.addPending p).parked = s.parked := rfl
@[simp] theorem State.addPending_agenda (p : PendStore) : (s.addPending p).agenda = s.agenda := rfl
@[simp] theorem State.addPending_arg (p : PendStore) : (s.addPending p).arg = s.arg := rfl
@[simp] theorem State.addPending_choices (p : PendStore) : (s.addPending p).choices = s.choices := rfl
@[simp] theorem State.addPending_mem (p : PendStore) : (s.addPending p).mem = s.mem := rfl
@[simp] theorem State.addPending_poison (p : PendStore) : (s.addPending p).poison = s.poison := rfl
@[simp] theorem State.addPending_tags (p : PendStore) : (s.addPending p).tags = s.tags := rfl
@[simp] theorem State.addPending_tlb (p : PendStore) : (s.addPending p).tlb = s.tlb := rfl
@[simp] theorem State.addPending_fetched (p : PendStore) : (s.addPending p).fetched = s.fetched := rfl
@[simp] theorem State.addPending_readOnly (p : PendStore) : (s.addPending p).readOnly = s.readOnly := rfl
@[simp] theorem State.addPending_lanes (p : PendStore) : (s.addPending p).lanes = s.lanes := rfl
@[simp] theorem State.addPending_steps (p : PendStore) : (s.addPending p).steps = s.steps := rfl
@[simp] theorem State.addPending_cycle (p : PendStore) : (s.addPending p).cycle = s.cycle := rfl
@[simp] theorem State.addPending_ptbase (p : PendStore) : (s.addPending p).ptbase = s.ptbase := rfl
@[simp] theorem State.addPending_ptlog2 (p : PendStore) : (s.addPending p).ptlog2 = s.ptlog2 := rfl
@[simp] theorem State.addPending_trapEntry (p : PendStore) : (s.addPending p).trapEntry = s.trapEntry := rfl
@[simp] theorem State.addPending_slotCounters (p : PendStore) : (s.addPending p).slotCounters = s.slotCounters := rfl
@[simp] theorem State.addPending_dies (p : PendStore) : (s.addPending p).dies = s.dies := rfl
@[simp] theorem State.addPending_cmds (p : PendStore) : (s.addPending p).cmds = s.cmds := rfl
@[simp] theorem State.addPending_sets (p : PendStore) : (s.addPending p).sets = s.sets := rfl
@[simp] theorem State.addPending_barriers (p : PendStore) : (s.addPending p).barriers = s.barriers := rfl
@[simp] theorem State.addPending_graphs (p : PendStore) : (s.addPending p).graphs = s.graphs := rfl
@[simp] theorem State.addPending_nextGraph (p : PendStore) : (s.addPending p).nextGraph = s.nextGraph := rfl
@[simp] theorem State.addPending_turns (p : PendStore) : (s.addPending p).turns = s.turns := rfl
@[simp] theorem State.addPending_dispWrites (p : PendStore) : (s.addPending p).dispWrites = s.dispWrites := rfl
@[simp] theorem State.addPending_arenas (p : PendStore) : (s.addPending p).arenas = s.arenas := rfl
@[simp] theorem State.addPending_exports (p : PendStore) : (s.addPending p).exports = s.exports := rfl
@[simp] theorem State.addPending_queues (p : PendStore) : (s.addPending p).queues = s.queues := rfl
@[simp] theorem State.addPending_assigned (p : PendStore) : (s.addPending p).assigned = s.assigned := rfl
@[simp] theorem State.addPending_bar2 (p : PendStore) : (s.addPending p).bar2 = s.bar2 := rfl
@[simp] theorem State.addPending_replicas (p : PendStore) : (s.addPending p).replicas = s.replicas := rfl
@[simp] theorem State.addPending_routes (p : PendStore) : (s.addPending p).routes = s.routes := rfl
@[simp] theorem State.addPending_grants (p : PendStore) : (s.addPending p).grants = s.grants := rfl
@[simp] theorem State.addPending_marks (p : PendStore) : (s.addPending p).marks = s.marks := rfl
@[simp] theorem State.addPending_ports (p : PendStore) : (s.addPending p).ports = s.ports := rfl
@[simp] theorem State.addPending_registers (p : PendStore) : (s.addPending p).registers = s.registers := rfl
@[simp] theorem State.addPending_symbols (p : PendStore) : (s.addPending p).symbols = s.symbols := rfl
@[simp] theorem State.addPending_objects (p : PendStore) : (s.addPending p).objects = s.objects := rfl
@[simp] theorem State.addPending_hostData (p : PendStore) : (s.addPending p).hostData = s.hostData := rfl
@[simp] theorem State.addPending_hostErrors (p : PendStore) : (s.addPending p).hostErrors = s.hostErrors := rfl
@[simp] theorem State.addPending_peerData (p : PendStore) : (s.addPending p).peerData = s.peerData := rfl
@[simp] theorem State.addPending_bootFailed (p : PendStore) : (s.addPending p).bootFailed = s.bootFailed := rfl
@[simp] theorem State.addPending_dumps (p : PendStore) : (s.addPending p).dumps = s.dumps := rfl
@[simp] theorem State.addPending_fatal (p : PendStore) : (s.addPending p).fatal = s.fatal := rfl

@[simp] theorem State.dropReplicas_hart (pa frames : Nat) : (s.dropReplicas pa frames).hart = s.hart := rfl
@[simp] theorem State.dropReplicas_parked (pa frames : Nat) : (s.dropReplicas pa frames).parked = s.parked := rfl
@[simp] theorem State.dropReplicas_agenda (pa frames : Nat) : (s.dropReplicas pa frames).agenda = s.agenda := rfl
@[simp] theorem State.dropReplicas_arg (pa frames : Nat) : (s.dropReplicas pa frames).arg = s.arg := rfl
@[simp] theorem State.dropReplicas_choices (pa frames : Nat) : (s.dropReplicas pa frames).choices = s.choices := rfl
@[simp] theorem State.dropReplicas_mem (pa frames : Nat) : (s.dropReplicas pa frames).mem = s.mem := rfl
@[simp] theorem State.dropReplicas_poison (pa frames : Nat) : (s.dropReplicas pa frames).poison = s.poison := rfl
@[simp] theorem State.dropReplicas_pend (pa frames : Nat) : (s.dropReplicas pa frames).pend = s.pend := rfl
@[simp] theorem State.dropReplicas_storeSeq (pa frames : Nat) : (s.dropReplicas pa frames).storeSeq = s.storeSeq := rfl
@[simp] theorem State.dropReplicas_tags (pa frames : Nat) : (s.dropReplicas pa frames).tags = s.tags := rfl
@[simp] theorem State.dropReplicas_tlb (pa frames : Nat) : (s.dropReplicas pa frames).tlb = s.tlb := rfl
@[simp] theorem State.dropReplicas_fetched (pa frames : Nat) : (s.dropReplicas pa frames).fetched = s.fetched := rfl
@[simp] theorem State.dropReplicas_readOnly (pa frames : Nat) : (s.dropReplicas pa frames).readOnly = s.readOnly := rfl
@[simp] theorem State.dropReplicas_lanes (pa frames : Nat) : (s.dropReplicas pa frames).lanes = s.lanes := rfl
@[simp] theorem State.dropReplicas_steps (pa frames : Nat) : (s.dropReplicas pa frames).steps = s.steps := rfl
@[simp] theorem State.dropReplicas_cycle (pa frames : Nat) : (s.dropReplicas pa frames).cycle = s.cycle := rfl
@[simp] theorem State.dropReplicas_ptbase (pa frames : Nat) : (s.dropReplicas pa frames).ptbase = s.ptbase := rfl
@[simp] theorem State.dropReplicas_ptlog2 (pa frames : Nat) : (s.dropReplicas pa frames).ptlog2 = s.ptlog2 := rfl
@[simp] theorem State.dropReplicas_trapEntry (pa frames : Nat) : (s.dropReplicas pa frames).trapEntry = s.trapEntry := rfl
@[simp] theorem State.dropReplicas_slotCounters (pa frames : Nat) : (s.dropReplicas pa frames).slotCounters = s.slotCounters := rfl
@[simp] theorem State.dropReplicas_dies (pa frames : Nat) : (s.dropReplicas pa frames).dies = s.dies := rfl
@[simp] theorem State.dropReplicas_cmds (pa frames : Nat) : (s.dropReplicas pa frames).cmds = s.cmds := rfl
@[simp] theorem State.dropReplicas_sets (pa frames : Nat) : (s.dropReplicas pa frames).sets = s.sets := rfl
@[simp] theorem State.dropReplicas_barriers (pa frames : Nat) : (s.dropReplicas pa frames).barriers = s.barriers := rfl
@[simp] theorem State.dropReplicas_graphs (pa frames : Nat) : (s.dropReplicas pa frames).graphs = s.graphs := rfl
@[simp] theorem State.dropReplicas_nextGraph (pa frames : Nat) : (s.dropReplicas pa frames).nextGraph = s.nextGraph := rfl
@[simp] theorem State.dropReplicas_turns (pa frames : Nat) : (s.dropReplicas pa frames).turns = s.turns := rfl
@[simp] theorem State.dropReplicas_dispWrites (pa frames : Nat) : (s.dropReplicas pa frames).dispWrites = s.dispWrites := rfl
@[simp] theorem State.dropReplicas_arenas (pa frames : Nat) : (s.dropReplicas pa frames).arenas = s.arenas := rfl
@[simp] theorem State.dropReplicas_exports (pa frames : Nat) : (s.dropReplicas pa frames).exports = s.exports := rfl
@[simp] theorem State.dropReplicas_queues (pa frames : Nat) : (s.dropReplicas pa frames).queues = s.queues := rfl
@[simp] theorem State.dropReplicas_assigned (pa frames : Nat) : (s.dropReplicas pa frames).assigned = s.assigned := rfl
@[simp] theorem State.dropReplicas_bar2 (pa frames : Nat) : (s.dropReplicas pa frames).bar2 = s.bar2 := rfl
@[simp] theorem State.dropReplicas_routes (pa frames : Nat) : (s.dropReplicas pa frames).routes = s.routes := rfl
@[simp] theorem State.dropReplicas_grants (pa frames : Nat) : (s.dropReplicas pa frames).grants = s.grants := rfl
@[simp] theorem State.dropReplicas_marks (pa frames : Nat) : (s.dropReplicas pa frames).marks = s.marks := rfl
@[simp] theorem State.dropReplicas_ports (pa frames : Nat) : (s.dropReplicas pa frames).ports = s.ports := rfl
@[simp] theorem State.dropReplicas_registers (pa frames : Nat) : (s.dropReplicas pa frames).registers = s.registers := rfl
@[simp] theorem State.dropReplicas_symbols (pa frames : Nat) : (s.dropReplicas pa frames).symbols = s.symbols := rfl
@[simp] theorem State.dropReplicas_objects (pa frames : Nat) : (s.dropReplicas pa frames).objects = s.objects := rfl
@[simp] theorem State.dropReplicas_hostData (pa frames : Nat) : (s.dropReplicas pa frames).hostData = s.hostData := rfl
@[simp] theorem State.dropReplicas_hostErrors (pa frames : Nat) : (s.dropReplicas pa frames).hostErrors = s.hostErrors := rfl
@[simp] theorem State.dropReplicas_peerData (pa frames : Nat) : (s.dropReplicas pa frames).peerData = s.peerData := rfl
@[simp] theorem State.dropReplicas_bootFailed (pa frames : Nat) : (s.dropReplicas pa frames).bootFailed = s.bootFailed := rfl
@[simp] theorem State.dropReplicas_dumps (pa frames : Nat) : (s.dropReplicas pa frames).dumps = s.dumps := rfl
@[simp] theorem State.dropReplicas_fatal (pa frames : Nat) : (s.dropReplicas pa frames).fatal = s.fatal := rfl

@[simp] theorem State.dropCopies_hart (p : Place) (asid : Asid) (va : Word) : (s.dropCopies p asid va).hart = s.hart := rfl
@[simp] theorem State.dropCopies_parked (p : Place) (asid : Asid) (va : Word) : (s.dropCopies p asid va).parked = s.parked := rfl
@[simp] theorem State.dropCopies_agenda (p : Place) (asid : Asid) (va : Word) : (s.dropCopies p asid va).agenda = s.agenda := rfl
@[simp] theorem State.dropCopies_arg (p : Place) (asid : Asid) (va : Word) : (s.dropCopies p asid va).arg = s.arg := rfl
@[simp] theorem State.dropCopies_choices (p : Place) (asid : Asid) (va : Word) : (s.dropCopies p asid va).choices = s.choices := rfl
@[simp] theorem State.dropCopies_mem (p : Place) (asid : Asid) (va : Word) : (s.dropCopies p asid va).mem = s.mem := rfl
@[simp] theorem State.dropCopies_poison (p : Place) (asid : Asid) (va : Word) : (s.dropCopies p asid va).poison = s.poison := rfl
@[simp] theorem State.dropCopies_pend (p : Place) (asid : Asid) (va : Word) : (s.dropCopies p asid va).pend = s.pend := rfl
@[simp] theorem State.dropCopies_storeSeq (p : Place) (asid : Asid) (va : Word) : (s.dropCopies p asid va).storeSeq = s.storeSeq := rfl
@[simp] theorem State.dropCopies_tags (p : Place) (asid : Asid) (va : Word) : (s.dropCopies p asid va).tags = s.tags := rfl
@[simp] theorem State.dropCopies_fetched (p : Place) (asid : Asid) (va : Word) : (s.dropCopies p asid va).fetched = s.fetched := rfl
@[simp] theorem State.dropCopies_readOnly (p : Place) (asid : Asid) (va : Word) : (s.dropCopies p asid va).readOnly = s.readOnly := rfl
@[simp] theorem State.dropCopies_lanes (p : Place) (asid : Asid) (va : Word) : (s.dropCopies p asid va).lanes = s.lanes := rfl
@[simp] theorem State.dropCopies_steps (p : Place) (asid : Asid) (va : Word) : (s.dropCopies p asid va).steps = s.steps := rfl
@[simp] theorem State.dropCopies_cycle (p : Place) (asid : Asid) (va : Word) : (s.dropCopies p asid va).cycle = s.cycle := rfl
@[simp] theorem State.dropCopies_ptbase (p : Place) (asid : Asid) (va : Word) : (s.dropCopies p asid va).ptbase = s.ptbase := rfl
@[simp] theorem State.dropCopies_ptlog2 (p : Place) (asid : Asid) (va : Word) : (s.dropCopies p asid va).ptlog2 = s.ptlog2 := rfl
@[simp] theorem State.dropCopies_trapEntry (p : Place) (asid : Asid) (va : Word) : (s.dropCopies p asid va).trapEntry = s.trapEntry := rfl
@[simp] theorem State.dropCopies_slotCounters (p : Place) (asid : Asid) (va : Word) : (s.dropCopies p asid va).slotCounters = s.slotCounters := rfl
@[simp] theorem State.dropCopies_dies (p : Place) (asid : Asid) (va : Word) : (s.dropCopies p asid va).dies = s.dies := rfl
@[simp] theorem State.dropCopies_cmds (p : Place) (asid : Asid) (va : Word) : (s.dropCopies p asid va).cmds = s.cmds := rfl
@[simp] theorem State.dropCopies_sets (p : Place) (asid : Asid) (va : Word) : (s.dropCopies p asid va).sets = s.sets := rfl
@[simp] theorem State.dropCopies_barriers (p : Place) (asid : Asid) (va : Word) : (s.dropCopies p asid va).barriers = s.barriers := rfl
@[simp] theorem State.dropCopies_graphs (p : Place) (asid : Asid) (va : Word) : (s.dropCopies p asid va).graphs = s.graphs := rfl
@[simp] theorem State.dropCopies_nextGraph (p : Place) (asid : Asid) (va : Word) : (s.dropCopies p asid va).nextGraph = s.nextGraph := rfl
@[simp] theorem State.dropCopies_turns (p : Place) (asid : Asid) (va : Word) : (s.dropCopies p asid va).turns = s.turns := rfl
@[simp] theorem State.dropCopies_dispWrites (p : Place) (asid : Asid) (va : Word) : (s.dropCopies p asid va).dispWrites = s.dispWrites := rfl
@[simp] theorem State.dropCopies_arenas (p : Place) (asid : Asid) (va : Word) : (s.dropCopies p asid va).arenas = s.arenas := rfl
@[simp] theorem State.dropCopies_exports (p : Place) (asid : Asid) (va : Word) : (s.dropCopies p asid va).exports = s.exports := rfl
@[simp] theorem State.dropCopies_queues (p : Place) (asid : Asid) (va : Word) : (s.dropCopies p asid va).queues = s.queues := rfl
@[simp] theorem State.dropCopies_assigned (p : Place) (asid : Asid) (va : Word) : (s.dropCopies p asid va).assigned = s.assigned := rfl
@[simp] theorem State.dropCopies_bar2 (p : Place) (asid : Asid) (va : Word) : (s.dropCopies p asid va).bar2 = s.bar2 := rfl
@[simp] theorem State.dropCopies_replicas (p : Place) (asid : Asid) (va : Word) : (s.dropCopies p asid va).replicas = s.replicas := rfl
@[simp] theorem State.dropCopies_routes (p : Place) (asid : Asid) (va : Word) : (s.dropCopies p asid va).routes = s.routes := rfl
@[simp] theorem State.dropCopies_grants (p : Place) (asid : Asid) (va : Word) : (s.dropCopies p asid va).grants = s.grants := rfl
@[simp] theorem State.dropCopies_marks (p : Place) (asid : Asid) (va : Word) : (s.dropCopies p asid va).marks = s.marks := rfl
@[simp] theorem State.dropCopies_ports (p : Place) (asid : Asid) (va : Word) : (s.dropCopies p asid va).ports = s.ports := rfl
@[simp] theorem State.dropCopies_registers (p : Place) (asid : Asid) (va : Word) : (s.dropCopies p asid va).registers = s.registers := rfl
@[simp] theorem State.dropCopies_symbols (p : Place) (asid : Asid) (va : Word) : (s.dropCopies p asid va).symbols = s.symbols := rfl
@[simp] theorem State.dropCopies_objects (p : Place) (asid : Asid) (va : Word) : (s.dropCopies p asid va).objects = s.objects := rfl
@[simp] theorem State.dropCopies_hostData (p : Place) (asid : Asid) (va : Word) : (s.dropCopies p asid va).hostData = s.hostData := rfl
@[simp] theorem State.dropCopies_hostErrors (p : Place) (asid : Asid) (va : Word) : (s.dropCopies p asid va).hostErrors = s.hostErrors := rfl
@[simp] theorem State.dropCopies_peerData (p : Place) (asid : Asid) (va : Word) : (s.dropCopies p asid va).peerData = s.peerData := rfl
@[simp] theorem State.dropCopies_bootFailed (p : Place) (asid : Asid) (va : Word) : (s.dropCopies p asid va).bootFailed = s.bootFailed := rfl
@[simp] theorem State.dropCopies_dumps (p : Place) (asid : Asid) (va : Word) : (s.dropCopies p asid va).dumps = s.dumps := rfl
@[simp] theorem State.dropCopies_fatal (p : Place) (asid : Asid) (va : Word) : (s.dropCopies p asid va).fatal = s.fatal := rfl

@[simp] theorem State.stopDevice_hart (r : FatalReport) : (s.stopDevice r).hart = s.hart := rfl
@[simp] theorem State.stopDevice_parked (r : FatalReport) : (s.stopDevice r).parked = s.parked := rfl
@[simp] theorem State.stopDevice_agenda (r : FatalReport) : (s.stopDevice r).agenda = s.agenda := rfl
@[simp] theorem State.stopDevice_arg (r : FatalReport) : (s.stopDevice r).arg = s.arg := rfl
@[simp] theorem State.stopDevice_choices (r : FatalReport) : (s.stopDevice r).choices = s.choices := rfl
@[simp] theorem State.stopDevice_mem (r : FatalReport) : (s.stopDevice r).mem = s.mem := rfl
@[simp] theorem State.stopDevice_poison (r : FatalReport) : (s.stopDevice r).poison = s.poison := rfl
@[simp] theorem State.stopDevice_pend (r : FatalReport) : (s.stopDevice r).pend = s.pend := rfl
@[simp] theorem State.stopDevice_storeSeq (r : FatalReport) : (s.stopDevice r).storeSeq = s.storeSeq := rfl
@[simp] theorem State.stopDevice_tags (r : FatalReport) : (s.stopDevice r).tags = s.tags := rfl
@[simp] theorem State.stopDevice_tlb (r : FatalReport) : (s.stopDevice r).tlb = s.tlb := rfl
@[simp] theorem State.stopDevice_fetched (r : FatalReport) : (s.stopDevice r).fetched = s.fetched := rfl
@[simp] theorem State.stopDevice_readOnly (r : FatalReport) : (s.stopDevice r).readOnly = s.readOnly := rfl
@[simp] theorem State.stopDevice_lanes (r : FatalReport) : (s.stopDevice r).lanes = s.lanes := rfl
@[simp] theorem State.stopDevice_steps (r : FatalReport) : (s.stopDevice r).steps = s.steps := rfl
@[simp] theorem State.stopDevice_cycle (r : FatalReport) : (s.stopDevice r).cycle = s.cycle := rfl
@[simp] theorem State.stopDevice_ptbase (r : FatalReport) : (s.stopDevice r).ptbase = s.ptbase := rfl
@[simp] theorem State.stopDevice_ptlog2 (r : FatalReport) : (s.stopDevice r).ptlog2 = s.ptlog2 := rfl
@[simp] theorem State.stopDevice_trapEntry (r : FatalReport) : (s.stopDevice r).trapEntry = s.trapEntry := rfl
@[simp] theorem State.stopDevice_slotCounters (r : FatalReport) : (s.stopDevice r).slotCounters = s.slotCounters := rfl
@[simp] theorem State.stopDevice_dies (r : FatalReport) : (s.stopDevice r).dies = s.dies := rfl
@[simp] theorem State.stopDevice_cmds (r : FatalReport) : (s.stopDevice r).cmds = s.cmds := rfl
@[simp] theorem State.stopDevice_sets (r : FatalReport) : (s.stopDevice r).sets = s.sets := rfl
@[simp] theorem State.stopDevice_barriers (r : FatalReport) : (s.stopDevice r).barriers = s.barriers := rfl
@[simp] theorem State.stopDevice_graphs (r : FatalReport) : (s.stopDevice r).graphs = s.graphs := rfl
@[simp] theorem State.stopDevice_nextGraph (r : FatalReport) : (s.stopDevice r).nextGraph = s.nextGraph := rfl
@[simp] theorem State.stopDevice_turns (r : FatalReport) : (s.stopDevice r).turns = s.turns := rfl
@[simp] theorem State.stopDevice_dispWrites (r : FatalReport) : (s.stopDevice r).dispWrites = s.dispWrites := rfl
@[simp] theorem State.stopDevice_arenas (r : FatalReport) : (s.stopDevice r).arenas = s.arenas := rfl
@[simp] theorem State.stopDevice_exports (r : FatalReport) : (s.stopDevice r).exports = s.exports := rfl
@[simp] theorem State.stopDevice_queues (r : FatalReport) : (s.stopDevice r).queues = s.queues := rfl
@[simp] theorem State.stopDevice_assigned (r : FatalReport) : (s.stopDevice r).assigned = s.assigned := rfl
@[simp] theorem State.stopDevice_bar2 (r : FatalReport) : (s.stopDevice r).bar2 = s.bar2 := rfl
@[simp] theorem State.stopDevice_replicas (r : FatalReport) : (s.stopDevice r).replicas = s.replicas := rfl
@[simp] theorem State.stopDevice_routes (r : FatalReport) : (s.stopDevice r).routes = s.routes := rfl
@[simp] theorem State.stopDevice_grants (r : FatalReport) : (s.stopDevice r).grants = s.grants := rfl
@[simp] theorem State.stopDevice_marks (r : FatalReport) : (s.stopDevice r).marks = s.marks := rfl
@[simp] theorem State.stopDevice_ports (r : FatalReport) : (s.stopDevice r).ports = s.ports := rfl
@[simp] theorem State.stopDevice_registers (r : FatalReport) : (s.stopDevice r).registers = s.registers := rfl
@[simp] theorem State.stopDevice_symbols (r : FatalReport) : (s.stopDevice r).symbols = s.symbols := rfl
@[simp] theorem State.stopDevice_objects (r : FatalReport) : (s.stopDevice r).objects = s.objects := rfl
@[simp] theorem State.stopDevice_hostData (r : FatalReport) : (s.stopDevice r).hostData = s.hostData := rfl
@[simp] theorem State.stopDevice_hostErrors (r : FatalReport) : (s.stopDevice r).hostErrors = s.hostErrors := rfl
@[simp] theorem State.stopDevice_peerData (r : FatalReport) : (s.stopDevice r).peerData = s.peerData := rfl
@[simp] theorem State.stopDevice_bootFailed (r : FatalReport) : (s.stopDevice r).bootFailed = s.bootFailed := rfl
@[simp] theorem State.stopDevice_dumps (r : FatalReport) : (s.stopDevice r).dumps = s.dumps := rfl

end StateUpdates

/-! Registers read back. -/

theorem Hart.getX_zero (h : Hart) : h.getX 0 = 0 := by simp [Hart.getX]

@[simp] theorem Hart.getX_setX (h : Hart) (d r : Reg) (v : Word) :
    (h.setX d v).getX r = if r = 0 then 0 else if r = d then v else h.getX r := by
  by_cases hr : r = 0
  · simp only [Hart.getX, hr, if_true]
  · by_cases hd : d = 0
    · simp only [Hart.setX, hd, if_true, Hart.getX, if_neg hr]
    · simp only [Hart.setX, if_neg hd, Hart.getX, if_neg hr, Vector.getElem_set]
      by_cases he : r = d
      · simp [he]
      · have : d.toNat ≠ r.toNat := fun e => he (BitVec.eq_of_toNat_eq e.symm)
        simp only [if_neg he, if_neg this]

@[simp] theorem Hart.getX_auRead (h : Hart) (l : List Reg) (r : Reg) : (h.auRead l).getX r = h.getX r := by
  simp [Hart.getX]

@[simp] theorem Hart.getX_setM (h : Hart) (k : Nat) (v : MReg) (r : Reg) : (h.setM k v).getX r = h.getX r := by
  simp [Hart.getX]

/-- A file read at `r` after a write at `d`: a number outside the file is no register. -/
theorem getD_setIfInBounds {α : Type} {n : Nat} (v : Vector α n) (d r : Nat) (x z : α) :
    (v.setIfInBounds d x).getD r z = if r = d ∧ r < n then x else v.getD r z := by
  unfold Vector.getD
  by_cases hr : r < n
  · by_cases he : r = d
    · subst he; simp [hr]
    · simp [hr, he, Ne.symm he]
  · simp [hr]

/-- m7 reads as zero while ELX is 0 (R94). -/
theorem Hart.getM_setM (h : Hart) (d r : Nat) (v : MReg) :
    (h.setM d v).getM r = if r = d ∧ 0 < r ∧ r < 8 ∧ ¬(r = 7 ∧ h.csr.elx = 0) then v else h.getM r := by
  by_cases hr : r = 0 ∨ (r = 7 ∧ h.csr.elx = 0)
  · rcases hr with hr | hr <;> simp [Hart.getM, hr]
  · by_cases hd : d = 0
    · subst hd; simp [Hart.setM]; intro h0; simp [h0] at hr
    · have h0 : 0 < r := Nat.pos_of_ne_zero fun e => hr (.inl e)
      have h7 : ¬(r = 7 ∧ h.csr.elx = 0) := fun e => hr (.inr e)
      have he : (h.setM d v).csr.elx = h.csr.elx := by simp
      simp only [Hart.getM, he, if_neg hr]
      simp only [Hart.setM, if_neg hd, getD_setIfInBounds, h0, h7, not_false_eq_true, true_and, and_true]

theorem Hart.getBS_setBS (h : Hart) (d r : Nat) (v : EReg) :
    (h.setBS d v).getBS r = if r = d ∧ r < 8 then v else h.getBS r := getD_setIfInBounds ..

theorem Hart.getAP_setAP (h : Hart) (d r : Nat) (v : APReg) :
    (h.setAP d v).getAP r = if r = d ∧ r < 8 then v else h.getAP r := getD_setIfInBounds ..

theorem Hart.getH_setH (h : Hart) (d r : Nat) (v : Handle) :
    (h.setH d v).getH r = if r = d ∧ r < 16 then v else h.getH r := getD_setIfInBounds ..

theorem Hart.getAC_setAC (h : Hart) (d r : Nat) (v : AcName) :
    (h.setAC d v).getAC r = if r = d ∧ r < 8 then v else h.getAC r := getD_setIfInBounds ..

theorem State.die_setDie (s : State) (d k : Nat) (v : Die) :
    (s.setDie d v).die k = if k = d ∧ k < 4 then v else s.die k := getD_setIfInBounds ..

end Sys2Proof.Machine
end

