-- ==== Sys2Proof/Laws/Effects.lean ====
section
/-!
SUPPORT. What each step of an effect answers, and how `finish` turns the answer into an outcome. A proof about a meaning
rewrites with these and unfolds no effect.
-/

namespace Sys2Proof.Machine

variable {α β : Type}

@[simp] theorem Op.pure_run (a : α) (s : State) : (pure a : Op α) s = .ok a s := rfl

@[simp] theorem Op.get_run (s : State) : (get : Op State) s = .ok s s := rfl

@[simp] theorem Op.set_run (t s : State) : (set t : Op Unit) s = .ok () t := rfl

@[simp] theorem Op.modify_run (f : State → State) (s : State) : (modify f : Op Unit) s = .ok () (f s) := rfl

@[simp] theorem Op.throw_run (e : Stop) (s : State) : (throw e : Op α) s = .error e s := rfl

theorem Op.bind_run (x : Op α) (f : α → Op β) (s : State) :
    (x >>= f) s = match x s with
      | .ok a t => f a t
      | .error e t => .error e t := by
  show EStateM.bind x f s = _
  unfold EStateM.bind
  cases x s <;> rfl

/-- A first part that answers hands on to the rest. -/
theorem Op.bind_ok {x : Op α} {f : α → Op β} {s t : State} {a : α} (h : x s = .ok a t) : (x >>= f) s = f a t := by
  rw [Op.bind_run, h]

/-- A first part that stops is the whole. -/
theorem Op.bind_error {x : Op α} {f : α → Op β} {s t : State} {e : Stop} (h : x s = .error e t) :
    (x >>= f) s = .error e t := by
  rw [Op.bind_run, h]

/-- A sequence that answers has a first part that answers. -/
theorem Op.bind_ok_iff {x : Op α} {f : α → Op β} {s u : State} {b : β} :
    (x >>= f) s = .ok b u ↔ ∃ a t, x s = .ok a t ∧ f a t = .ok b u := by
  rw [Op.bind_run]
  cases x s with
  | ok a t =>
    constructor
    · exact fun h => ⟨a, t, rfl, h⟩
    · rintro ⟨a', t', h, hf⟩
      cases h
      exact hf
  | error e t =>
    constructor
    · intro h; cases h
    · rintro ⟨a', t', h, -⟩; cases h

@[simp] theorem modHart_run (f : Hart → Hart) (s : State) : modHart f s = .ok () { s with hart := f s.hart } := rfl

@[simp] theorem setX_run (r : Reg) (v : Word) (s : State) : setX r v s = .ok () { s with hart := s.hart.setX r v } := rfl

@[simp] theorem auReads_run (l : List Reg) (s : State) : auReads l s = .ok () { s with hart := s.hart.auRead l } := rfl

@[simp] theorem markActed_run (s : State) : markActed s = .ok () { s with hart := { s.hart with acted := true } } := rfl

@[simp] theorem modCsr_run (f : Csrs → Csrs) (s : State) :
    modCsr f s = .ok () { s with hart := { s.hart with csr := f s.hart.csr } } := rfl

@[simp] theorem releaseOp_run (k : Nat) (s : State) : releaseOp k s = .ok () (s.release s.hart.place k) := rfl

@[simp] theorem acquireOp_run (k : Nat) (s : State) : acquireOp k s = .ok () (s.acquire k) := rfl

@[simp] theorem choose_run (s : State) : choose s = .ok (Config.freeChoice s.choices) { s with choices := s.choices + 1 } := rfl

@[simp] theorem wait_run (s : State) : (wait : Op α) s = .error .wait s := rfl

@[simp] theorem trap_run (c : Cause) (a i : Word) (s : State) :
    (trap c a i : Op α) s = .error (.trap { cause := c, addr := a, info := i }) s := rfl

theorem trapIf_run (b : Bool) (c : Cause) (a i : Word) (s : State) :
    trapIf b c a i s = if b then .error (.trap { cause := c, addr := a, info := i }) s else .ok () s := by
  cases b <;> rfl

@[simp] theorem trapIf_true (c : Cause) (a i : Word) (s : State) :
    trapIf true c a i s = .error (.trap { cause := c, addr := a, info := i }) s := rfl

@[simp] theorem trapIf_false (c : Cause) (a i : Word) (s : State) : trapIf false c a i s = .ok () s := rfl

@[simp] theorem illegal_run (i : Word) (s : State) :
    (illegal i : Op α) s = .error (.trap { cause := .illegalInstruction, info := i }) s := rfl

@[simp] theorem illegalIf_true (s : State) :
    illegalIf true s = .error (.trap { cause := .illegalInstruction }) s := rfl

@[simp] theorem illegalIf_false (s : State) : illegalIf false s = .ok () s := rfl

@[simp] theorem check_ok (a : α) (s : State) : check (.ok a : Except Trap α) s = .ok a s := rfl

@[simp] theorem check_error (t : Trap) (s : State) : check (.error t : Except Trap α) s = .error (.trap t) s := rfl

/-! Outcomes. -/

theorem finish_ok {i : Instr} {body : Op Flow} {s t : State} {f : Flow} (h : body s = .ok f t) :
    finish i body s = .next (t.complete f) := by
  simp only [finish, h]

theorem finish_trap {i : Instr} {body : Op Flow} {s t : State} {c : Trap} (h : body s = .error (.trap c) t) :
    finish i body s = .next (t.takeTrap c) := by
  simp only [finish, h]

theorem finish_wait {i : Instr} {body : Op Flow} {s t : State} (h : body s = .error .wait t) :
    finish i body s = .next (t.waitAt i) := by
  simp only [finish, h]

theorem finishNext_ok {i : Instr} {body : Op Unit} {s t : State} (h : body s = .ok () t) :
    finishNext i body s = .next (t.complete .next) :=
  finish_ok (Op.bind_ok h)

theorem finishNext_trap {i : Instr} {body : Op Unit} {s t : State} {c : Trap} (h : body s = .error (.trap c) t) :
    finishNext i body s = .next (t.takeTrap c) :=
  finish_trap (Op.bind_error h)

theorem finishNext_wait {i : Instr} {body : Op Unit} {s t : State} (h : body s = .error .wait t) :
    finishNext i body s = .next (t.waitAt i) :=
  finish_wait (Op.bind_error h)

/-- Whatever an instruction's body does, its outcome is a next state. -/
theorem finish_next (i : Instr) (body : Op Flow) (s : State) : ∃ t, finish i body s = .next t := by
  unfold finish
  split
  · exact ⟨_, rfl⟩
  · exact ⟨_, rfl⟩
  · exact ⟨_, rfl⟩

theorem finishNext_next (i : Instr) (body : Op Unit) (s : State) : ∃ t, finishNext i body s = .next t := finish_next ..

/-! The hart of a completed instruction. -/

@[simp] theorem State.complete_next_pc (s : State) : (s.complete .next).hart.pc = nextPc s.hart.pc := by
  cases h : s.hart.firmware <;> simp [State.complete, h]

@[simp] theorem State.complete_next_sequential (s : State) : (s.complete .next).hart.sequential = true := rfl

@[simp] theorem State.complete_goto_pc (s : State) (pc : Word) : (s.complete (.goto pc)).hart.pc = pc := rfl

@[simp] theorem State.complete_goto_sequential (s : State) (pc : Word) : (s.complete (.goto pc)).hart.sequential = false := rfl

@[simp] theorem State.complete_placed (s : State) :
    s.complete .placed = { s with hart := { s.hart with arrived := s.cycle } } := rfl

end Sys2Proof.Machine
end

