-- ==== Sys2Proof/Laws/Frames.lean ====
section
/-!
SUPPORT. What completing, trapping and waiting do to a state, in the words of the statements; each is proved once, and a
statement about an instruction then needs its body alone.
-/

namespace Sys2Proof.Machine

theorem Unchanged.refl (l : List Piece) (s : State) : Unchanged l s s := by
  intro p _
  cases p <;> simp [Piece.Same]

theorem Unchanged.mono {l l' : List Piece} {s t : State} (h : Unchanged l s t) (hl : ∀ p ∈ l, p ∈ l') : Unchanged l' s t :=
  fun p hp => h p fun hm => hp (hl p hm)

/-- Frames compose where the privilege does not change in between. -/
theorem Unchanged.trans {l : List Piece} {s t u : State} (h : Unchanged l s t) (h' : Unchanged l t u)
    (hf : t.hart.firmware = s.hart.firmware) : Unchanged l s u := by
  intro p hp
  have a := h p hp
  have b := h' p hp
  cases p <;> simp only [Piece.Same] at a b ⊢ <;> grind

/-- The hart that completes, but for its PC. -/
theorem complete_hart (s : State) : (s.complete .next).hart =
    { (if s.hart.firmware then s.hart else { s.hart.setM 7 0 with csr := { s.hart.csr with elx := 0 } }) with
      waiting := none, landing := 0, pc := nextPc s.hart.pc, sequential := true, arrived := s.cycle } := by
  cases h : s.hart.firmware <;> simp [State.complete, h, Hart.setM]

/-- A mask register reads the same where the registers, and for m7 ELX, are the same (R94). -/
theorem getM_congr {h h' : Hart} {k : Nat} (e : k ≠ 0 → h'.m.getD k 0 = h.m.getD k 0) (hx : k = 7 → h'.csr.elx = h.csr.elx) :
    h'.getM k = h.getM k := by
  by_cases h0 : k = 0
  · simp [Hart.getM, h0]
  · by_cases h7 : k = 7
    · simp only [Hart.getM, hx h7, e h0]
    · simp only [Hart.getM, h7, false_and, or_false, e h0]

theorem getM_of_eq {h h' : Hart} (e : h'.m = h.m) (hx : h'.csr.elx = h.csr.elx) (k : Nat) : h'.getM k = h.getM k :=
  getM_congr (fun _ => by rw [e]) fun _ => hx

theorem getM_seven {h : Hart} (e : h.csr.elx = 0) : h.getM 7 = 0 := by simp [Hart.getM, e]

/-- What an instruction that completes at task privilege leaves of the masks. -/
theorem complete_getM {s : State} (h : s.hart.firmware = false) {f : Flow} (hf : f ≠ .placed) (k : Nat) (hk : k ≠ 7) :
    (s.complete f).hart.getM k = s.hart.getM k := by
  refine getM_congr (fun h0 => ?_) fun e => absurd e hk
  have : (s.hart.setM 7 0).m.getD k 0 = s.hart.m.getD k 0 := by
    simp [Hart.setM, getD_setIfInBounds, hk]
  cases f <;> simp_all [State.complete, Hart.setM]

/-- Completing leaves the loop buffer (R74). -/
theorem complete_loop (s : State) (f : Flow) : (s.complete f).hart.loop = s.hart.loop := by
  cases h : s.hart.firmware <;> cases f <;> simp [State.complete, h, Hart.setM]

/-- Completing changes no piece of the state. -/
theorem complete_unchanged (s : State) {f : Flow} (hf : f ≠ .placed) : Unchanged [] s (s.complete f) := by
  intro p _
  cases h : s.hart.firmware
  · cases p
    case m => exact fun k hk => complete_getM h hf k (hk.resolve_right (by simp [h]))
    case loop => exact complete_loop s f
    all_goals cases f <;> simp_all [Piece.Same, State.complete, State.byteAt, State.byteFrom, State.poisonFrom]
  · cases p
    case m => exact fun k _ => getM_of_eq (by cases f <;> simp_all [State.complete]) (by cases f <;> simp_all [State.complete]) k
    all_goals cases f <;> simp_all [Piece.Same, State.complete, State.byteAt, State.byteFrom, State.poisonFrom]

/-- An instruction that completes in sequence: where it goes, and that nothing else changes. -/
theorem complete_next (s : State) : Retires s (s.complete .next) ∧ Unchanged [] s (s.complete .next) := by
  refine ⟨⟨State.complete_next_pc s, rfl, ?_, ?_, fun h => ?_⟩, complete_unchanged s (by simp)⟩
  · cases h : s.hart.firmware <;> simp [State.complete, h, Hart.setM]
  · cases h : s.hart.firmware <;> simp [State.complete, h]
  · have e : (s.complete .next).hart.csr.elx = 0 := by simp [State.complete, h]
    exact ⟨e, getM_seven e⟩

/-- An instruction that completes with a transfer. -/
theorem complete_goto (s : State) (pc : Word) :
    Transfers pc s (s.complete (.goto pc)) ∧ Unchanged [] s (s.complete (.goto pc)) := by
  refine ⟨⟨rfl, rfl, ?_, ?_, fun h => ?_⟩, complete_unchanged s (by simp)⟩
  · cases h : s.hart.firmware <;> simp [State.complete, h, Hart.setM]
  · cases h : s.hart.firmware <;> simp [State.complete, h]
  · have e : (s.complete (.goto pc)).hart.csr.elx = 0 := by simp [State.complete, h]
    exact ⟨e, getM_seven e⟩

/-- The trap sequence at task privilege (R22). -/
theorem takeTrap_task {s : State} (h : s.hart.firmware = false) (t : Trap) :
    Enters s (s.takeTrap t) t.cause (if t.after then nextPc s.hart.pc else s.hart.pc) t.addr t.info t.seqf t.whole ∧
    (s.takeTrap t).hart.csr.elx = s.hart.csr.elx ∧ (s.takeTrap t).hart.getM 7 = s.hart.getM 7 ∧
    Unchanged (trapPieces t.cause) s (s.takeTrap t) := by
  have key : ∀ u : State, u.hart = s.hart → u.trapEntry = s.trapEntry → u.cycle = s.cycle →
      (if t.cause = .protection then s.dropCopies s.hart.place s.hart.accessAsid t.addr else s) = u →
      s.takeTrap t = { u with hart := { s.hart with
        csr := { s.hart.csr with
          epc := (if t.after then nextPc s.hart.pc else s.hart.pc), ecause := causeWord s.hart t, eaddr := t.addr, einfo := t.info }
        firmware := true, pc := s.trapEntry, sequential := false, arrived := s.cycle, waiting := none, landing := 0 } } := by
    intro u hu he hc hd
    simp only [State.takeTrap, hd, hu, he, hc, h, Bool.false_eq_true, if_false]
  have key := key _ (by split <;> rfl) (by split <;> rfl) (by split <;> rfl) rfl
  refine ⟨?_, by rw [key], by rw [key]; exact getM_of_eq rfl rfl 7, fun p hp => ?_⟩
  · rw [key]
    refine ⟨rfl, rfl, rfl, rfl, rfl, rfl, rfl, rfl, ?_⟩
    have hc : t.cause.code < 0x100 := by cases t.cause <;> decide
    simp only [causeWord, h, word, BitVec.toNat_ofNat, Bool.false_eq_true, if_false, Nat.add_zero, Bool.and_eq_true, bne_iff_ne,
      Bool.not_eq_true']
    exact Nat.mod_eq_of_lt (by split <;> split <;> omega)
  · rw [key]
    by_cases hp' : t.cause = .protection
    · cases p
      case m => exact fun k _ => getM_of_eq rfl rfl k
      all_goals simp_all [Piece.Same, trapPieces, State.byteAt, State.byteFrom, State.poisonFrom]
    · cases p
      case m => exact fun k _ => getM_of_eq rfl rfl k
      all_goals simp_all [Piece.Same, trapPieces, State.byteAt, State.byteFrom, State.poisonFrom]

/-- A trap at firmware privilege stops the device (R24). -/
theorem takeTrap_firmware {s : State} (h : s.hart.firmware = true) (t : Trap) :
    (s.takeTrap t).hart = s.hart ∧
    (s.takeTrap t).fatal = some (FatalReport.mk .firmwareTrap s.hart.place (if t.after then nextPc s.hart.pc else s.hart.pc)
      (causeWord s.hart t) t.addr t.info) := by
  by_cases hp : t.cause = .protection <;> simp [State.takeTrap, State.stopDevice, hp, h]

theorem waitAt_spec (s : State) (i : Instr) : (s.waitAt i).hart.waiting = some i ∧ Stays s (s.waitAt i) ∧
    Unchanged [] s (s.waitAt i) := by
  refine ⟨rfl, ⟨rfl, rfl, rfl, rfl, rfl⟩, fun p hp => ?_⟩
  cases p
  case m => exact fun k _ => getM_of_eq rfl rfl k
  all_goals simp_all [Piece.Same, State.waitAt, State.byteAt, State.byteFrom, State.poisonFrom]

/-- A body that answers makes its instruction complete; `u` is the state that the body leaves. -/
theorem completes_of_body {i : Instr} {body : Op Unit} {s u : State} {l : List Piece} {post : State → Prop}
    (hx : exec i s = finishNext i body s) (hb : body s = .ok () u) (hpc : u.hart.pc = s.hart.pc)
    (hf : u.hart.firmware = s.hart.firmware) (hu : Unchanged l s u) (hp : post (u.complete .next)) :
    Completes i s l post := by
  obtain ⟨⟨h1, h2, h3, h4, h5⟩, h6⟩ := complete_next u
  refine ⟨u.complete .next, ?_, ⟨by rw [h1, hpc], h2, h3, h4, fun h => h5 (by rw [hf, h])⟩,
    hu.trans (h6.mono (by simp)) hf, hp⟩
  rw [hx, finishNext_ok hb]

end Sys2Proof.Machine
end

