-- ==== Sys2Proof/Laws/Store.lean ====
section
/-!
SUPPORT. The laws of the sparse maps: a read after a write, and the canonical form that every operation keeps; and what a write
of bytes to memory does.
-/

namespace Sys2Proof.Machine

variable {α : Type} {d : α}

theorem Store.mem_erase {s : Store α} {a : Nat} {p : Nat × α} : p ∈ s.erase a ↔ p ∈ s ∧ p.1 ≠ a := by
  induction s with
  | nil => simp [Store.erase]
  | cons c rest ih =>
    obtain ⟨k, v⟩ := c
    by_cases hk : k = a
    · simp only [Store.erase, hk, if_true, ih, List.mem_cons]
      constructor
      · rintro ⟨h, hn⟩; exact ⟨.inr h, hn⟩
      · rintro ⟨rfl | h, hn⟩
        · exact absurd rfl hn
        · exact ⟨h, hn⟩
    · simp only [Store.erase, hk, if_false, List.mem_cons, ih]
      constructor
      · rintro (rfl | ⟨h, hn⟩)
        · exact ⟨.inl rfl, hk⟩
        · exact ⟨.inr h, hn⟩
      · rintro ⟨rfl | h, hn⟩
        · exact .inl rfl
        · exact .inr ⟨h, hn⟩

theorem Store.mem_insert {s : Store α} {a : Nat} {x : α} {p : Nat × α} : p ∈ s.insert a x ↔ p = (a, x) ∨ p ∈ s := by
  induction s with
  | nil => simp [Store.insert]
  | cons c rest ih =>
    obtain ⟨k, v⟩ := c
    by_cases hk : a < k
    · simp [Store.insert, hk]
    · simp [Store.insert, hk, ih, or_left_comm]

theorem Store.get_erase (s : Store α) (a b : Nat) : Store.get d (s.erase a) b = if b = a then d else s.get d b := by
  induction s with
  | nil => simp [Store.erase, Store.get]
  | cons c rest ih =>
    obtain ⟨k, v⟩ := c
    by_cases hk : k = a
    · subst hk
      by_cases hb : b = k
      · subst hb; simp [Store.erase, ih]
      · simp [Store.erase, ih, hb, Store.get, Ne.symm hb]
    · by_cases hb : k = b
      · subst hb; simp [Store.erase, hk, Store.get]
      · simp [Store.erase, hk, Store.get, hb, ih]

theorem Store.get_insert (s : Store α) (a b : Nat) (x : α) (h : ∀ p ∈ s, p.1 ≠ a) :
    Store.get d (s.insert a x) b = if b = a then x else s.get d b := by
  induction s with
  | nil =>
    by_cases hb : b = a
    · simp [Store.insert, Store.get, hb]
    · simp [Store.insert, Store.get, hb, Ne.symm hb]
  | cons c rest ih =>
    obtain ⟨k, v⟩ := c
    have hk : k ≠ a := h (k, v) (List.mem_cons_self ..)
    have ih := ih fun p hp => h p (List.mem_cons_of_mem _ hp)
    by_cases hb : b = a
    · subst hb
      by_cases hl : b < k <;> simp [Store.insert, Store.get, hl, hk, ih]
    · by_cases hl : a < k <;> simp [Store.insert, Store.get, hl, hb, ih, Ne.symm hb]

/-- A read after a write: the value written at its key, what was there before at every other. -/
theorem Store.get_set [DecidableEq α] (s : Store α) (a b : Nat) (x : α) :
    Store.get d (s.set d a x) b = if b = a then x else s.get d b := by
  unfold Store.set
  split
  · next h => rw [Store.get_erase, h]
  · rw [Store.get_insert _ _ _ _ fun p hp => (Store.mem_erase.1 hp).2, Store.get_erase]
    by_cases hb : b = a <;> simp [hb]

theorem Store.get_filter_keep (s : Store α) (f : Nat × α → Bool) (b : Nat) (h : ∀ p : Nat × α, p.1 = b → f p = true) :
    Store.get d (s.filter f) b = s.get d b := by
  induction s with
  | nil => rfl
  | cons c rest ih =>
    obtain ⟨k, v⟩ := c
    by_cases hb : k = b
    · subst hb; simp [List.filter, h (k, v) rfl, Store.get]
    · cases hf : f (k, v) <;> simp [List.filter, hf, Store.get, hb, ih]

theorem Store.get_filter_drop (s : Store α) (f : Nat × α → Bool) (b : Nat) (h : ∀ p : Nat × α, p.1 = b → f p = false) :
    Store.get d (s.filter f) b = d := by
  induction s with
  | nil => rfl
  | cons c rest ih =>
    obtain ⟨k, v⟩ := c
    by_cases hb : k = b
    · simp [List.filter, h (k, v) hb, ih]
    · cases hf : f (k, v) <;> simp [List.filter, hf, Store.get, hb, ih]

theorem Store.get_eraseRange (s : Store α) (lo hi b : Nat) :
    Store.get d (s.eraseRange lo hi) b = if lo ≤ b ∧ b < hi then d else s.get d b := by
  unfold Store.eraseRange
  split
  · next h => exact Store.get_filter_drop _ _ _ (by rintro ⟨k, v⟩ rfl; simp [h])
  · next h => exact Store.get_filter_keep _ _ _ (by rintro ⟨k, v⟩ rfl; simp; omega)

theorem Store.wf_nil : Store.Wf d [] := ⟨.nil, by simp⟩

theorem Store.wf_filter {s : Store α} (h : Store.Wf d s) (f : Nat × α → Bool) : Store.Wf d (s.filter f) :=
  ⟨h.1.sublist (List.filter_sublist.map _), fun p hp => h.2 p (List.mem_filter.1 hp).1⟩

theorem Store.wf_eraseRange {s : Store α} (h : Store.Wf d s) (lo hi : Nat) : Store.Wf d (s.eraseRange lo hi) :=
  Store.wf_filter h _

theorem Store.wf_tail {c : Nat × α} {s : Store α} (h : Store.Wf d (c :: s)) : Store.Wf d s :=
  ⟨(List.pairwise_cons.1 h.1).2, fun p hp => h.2 p (List.mem_cons_of_mem _ hp)⟩

theorem Store.wf_cons {k : Nat} {v : α} {s : Store α} (h : Store.Wf d s) (hv : v ≠ d) (hk : ∀ p ∈ s, k < p.1) :
    Store.Wf d ((k, v) :: s) :=
  ⟨List.pairwise_cons.2 ⟨by simpa using fun b x hx => hk (b, x) hx, h.1⟩, by
    intro p hp
    rcases List.mem_cons.1 hp with rfl | hp
    · exact hv
    · exact h.2 p hp⟩

theorem Store.wf_head_lt {k : Nat} {v : α} {s : Store α} (h : Store.Wf d ((k, v) :: s)) : ∀ p ∈ s, k < p.1 := by
  intro p hp
  exact (List.pairwise_cons.1 h.1).1 p.1 (List.mem_map_of_mem hp)

theorem Store.wf_erase {s : Store α} (h : Store.Wf d s) (a : Nat) : Store.Wf d (s.erase a) := by
  induction s with
  | nil => exact Store.wf_nil
  | cons c rest ih =>
    obtain ⟨k, v⟩ := c
    have ih := ih (Store.wf_tail h)
    by_cases hk : k = a
    · simpa [Store.erase, hk] using ih
    · simp only [Store.erase, hk, if_false]
      exact Store.wf_cons ih (h.2 (k, v) (List.mem_cons_self ..))
        fun p hp => Store.wf_head_lt h p (Store.mem_erase.1 hp).1

theorem Store.wf_insert {s : Store α} (h : Store.Wf d s) {a : Nat} {x : α} (hx : x ≠ d) (ha : ∀ p ∈ s, p.1 ≠ a) :
    Store.Wf d (s.insert a x) := by
  induction s with
  | nil => exact Store.wf_cons Store.wf_nil hx (by simp)
  | cons c rest ih =>
    obtain ⟨k, v⟩ := c
    have hk : k ≠ a := ha (k, v) (List.mem_cons_self ..)
    by_cases hl : a < k
    · simp only [Store.insert, hl, if_true]
      refine Store.wf_cons h hx fun p hp => ?_
      rcases List.mem_cons.1 hp with rfl | hp
      · exact hl
      · exact Nat.lt_trans hl (Store.wf_head_lt h p hp)
    · simp only [Store.insert, hl, if_false]
      refine Store.wf_cons (ih (Store.wf_tail h) fun p hp => ha p (List.mem_cons_of_mem _ hp))
        (h.2 (k, v) (List.mem_cons_self ..)) fun p hp => ?_
      rcases Store.mem_insert.1 hp with rfl | hp
      · show k < a
        omega
      · exact Store.wf_head_lt h p hp

/-- A write keeps the canonical form. -/
theorem Store.wf_set [DecidableEq α] {s : Store α} (h : Store.Wf d s) (a : Nat) (x : α) : Store.Wf d (s.set d a x) := by
  unfold Store.set
  split
  · exact Store.wf_erase h a
  · next hx => exact Store.wf_insert (Store.wf_erase h a) hx fun p hp => (Store.mem_erase.1 hp).2

/-- Writing a part keeps the canonical form. -/
theorem Store.wf_paste [DecidableEq α] {s : Store α} (h : Store.Wf d s) (lo : Nat) (part : Store α) :
    Store.Wf d (s.paste d lo part) := by
  unfold Store.paste
  induction part generalizing s with
  | nil => exact h
  | cons p rest ih => exact ih (Store.wf_set h _ _)

/-! Memory. -/

theorem State.setMemBytes_eq (s : State) (pa : Nat) (l : List Byte) :
    s.setMemBytes pa l = { s with mem := (s.setMemBytes pa l).mem } := by
  induction l generalizing s pa with
  | nil => rfl
  | cons b rest ih =>
    simp only [State.setMemBytes]
    rw [ih]

theorem State.wf_setMemBytes {s : State} (h : Memory.wf s.mem) (pa : Nat) (l : List Byte) :
    Memory.wf (s.setMemBytes pa l).mem := by
  induction l generalizing s pa with
  | nil => exact h
  | cons b rest ih => exact ih (s := { s with mem := s.mem.set 0 pa b }) (Store.wf_set h pa b) _

/-- A byte read after bytes are written. -/
theorem State.get_setMemBytes (s : State) (pa : Nat) (l : List Byte) (a : Nat) :
    (s.setMemBytes pa l).mem.get 0 a = if pa ≤ a ∧ a < pa + l.length then l.getD (a - pa) 0 else s.mem.get 0 a := by
  induction l generalizing s pa with
  | nil => exact (if_neg fun h => by have h2 := h.2; rw [List.length_nil] at h2; omega).symm
  | cons b rest ih =>
    simp only [State.setMemBytes, ih, Store.get_set, List.length_cons]
    by_cases ha : a = pa
    · subst ha; rw [if_neg (by omega)]; simp
    · by_cases hr : pa + 1 ≤ a ∧ a < pa + 1 + rest.length
      · have : a - pa = (a - (pa + 1)) + 1 := by omega
        rw [if_pos hr, if_pos (by omega), this]; simp
      · rw [if_neg hr, if_neg ha, if_neg (by omega)]

theorem State.reset_mem_wf : Memory.wf State.reset.mem := Store.wf_nil

end Sys2Proof.Machine
end

