-- ==== Sys2Proof/Tests/Slice0.lean ====
section
/-!
SUPPORT. Tests: instructions that are not well-formed, slot words of the spec, single steps whose results come from the spec's
tables and examples, and for the statements' hypotheses states that meet them.
-/

namespace Sys2Proof.Tests

-- One theorem after another: every `decide` waits for the kernel, and a thread that waits holds its stack.
set_option Elab.async false

open Sys2Proof Sys2Proof.Machine

/-! Instructions that the checks of 02:R37 to R41 refuse. -/

/-- FORM other than 0b11 (R34). -/
theorem test_illformed_form : ¬ (Instr.add { form := 0 }).WellFormed := by decide

/-- A field that the entry does not name (R38). -/
theorem test_illformed_reserved : ¬ (Instr.add { c := 1 }).WellFormed ∧ ¬ (Instr.beq { d := 1 }).WellFormed ∧
    ¬ (Instr.ldb { c := 1 }).WellFormed ∧ ¬ (Instr.binit { d := 1 }).WellFormed := by decide

/-- FORM 0b11 where a second source is chosen, and fields that the FORM leaves unused (R40). -/
theorem test_illformed_source : ¬ (Instr.vadd {}).WellFormed ∧ ¬ (Instr.vadd { form := 2, b := 1 }).WellFormed ∧
    ¬ (Instr.vmv { form := 1, a := 1 }).WellFormed ∧ ¬ (Instr.vfsqrt { form := 1 }).WellFormed ∧
    ¬ (Instr.vins { form := 0 }).WellFormed ∧ ¬ (Instr.vslup { form := 0 }).WellFormed := by decide

/-- MZ without a mask, and a member that needs one (R38, R141). -/
theorem test_illformed_mask : ¬ (Instr.vadd { form := 0, mz := 1 }).WellFormed ∧ ¬ (Instr.vld { mz := 1 }).WellFormed ∧
    ¬ (Instr.vmerge { form := 0 }).WellFormed := by decide

/-- FL outside the rounding codes (R122), and X of a conversion (R132 to R135). -/
theorem test_illformed_rounding : ¬ (Instr.vfadd { form := 0, fl := 7 }).WellFormed ∧
    ¬ (Instr.vcvt { form := 0, x := 0x80 }).WellFormed ∧ ¬ (Instr.vcvtbfp { form := 0, x := 4 }).WellFormed ∧
    ¬ (Instr.vcvtfbp { form := 0, x := 4 }).WellFormed := by decide

/-- Register numbers outside their file (R37). -/
theorem test_illformed_register : ¬ (Instr.mand { d := 0, a := 1, b := 1 }).WellFormed ∧ ¬ (Instr.bsset { d := 8 }).WellFormed ∧
    ¬ (Instr.dprod { d := 8 }).WellFormed ∧ ¬ (Instr.vdrop { a := 16 }).WellFormed ∧ ¬ (Instr.son { d := 47 }).WellFormed ∧
    ¬ (Instr.ldb { h := 1, a := 16 }).WellFormed ∧ ¬ (Instr.copy { a := 8 }).WellFormed := by decide

/-- Immediates beyond their limits (R68, R70, R297). -/
theorem test_illformed_immediate : ¬ (Instr.slli { imm := 64 }).WellFormed ∧ ¬ (Instr.shadd { imm := 8 }).WellFormed ∧
    ¬ (Instr.bfx { imm := 63 + 256 * 2 }).WellFormed ∧ ¬ (Instr.bfx { imm := 0 }).WellFormed ∧ ¬ (Instr.eset { imm := 256 }).WellFormed ∧
    ¬ (Instr.rrel { imm := 0 }).WellFormed ∧ ¬ (Instr.csrr { imm := 4096 }).WellFormed ∧ ¬ (Instr.apset { imm := 6 }).WellFormed ∧
    ¬ (Instr.fence { imm := 0x380 }).WellFormed ∧ ¬ (Instr.drain { imm := 16 }).WellFormed := by decide

/-- A target slot of 5, and LOOP on x0 (R41, R73). -/
theorem test_illformed_target : ¬ (Instr.jal { tslot := 5 }).WellFormed ∧ ¬ (Instr.loop {}).WellFormed ∧
    ¬ (Instr.loopn { a := 8 }).WellFormed := by decide

/-- ORD, SCOPE, RO and NF that an access may not have (R238, R240, R75). -/
theorem test_illformed_access : ¬ (Instr.ldb { ord := 2, scope := 1 }).WellFormed ∧ ¬ (Instr.stb { ord := 1, scope := 1 }).WellFormed ∧
    ¬ (Instr.ldb { scope := 1 }).WellFormed ∧ ¬ (Instr.vld { scope := 6 }).WellFormed ∧ ¬ (Instr.ldb { ord := 1, ro := 1 }).WellFormed ∧
    ¬ (Instr.vld { c := 1 }).WellFormed ∧ ¬ (Instr.vld { nf := 1 }).WellFormed ∧ ¬ (Instr.vld { aux := 1 }).WellFormed ∧
    ¬ (Instr.vldx { ixw := 4 }).WellFormed ∧ ¬ (Instr.vldr {}).WellFormed := by decide

/-- Fields of the remaining kinds (R202, R237, R245, R252, R284, R291, R292, R298, R394). -/
theorem test_illformed_others : ¬ (Instr.amoadd { aux := 2 }).WellFormed ∧ ¬ (Instr.vamo { aux := 14 }).WellFormed ∧
    ¬ (Instr.copy { rs := 1 }).WellFormed ∧ ¬ (Instr.copycv { cmod := 1 }).WellFormed ∧ ¬ (Instr.copyseg {}).WellFormed ∧ (Instr.copyseg { cmod := 64 }).WellFormed ∧
    (Instr.copyseg { cmod := 96, imm := 8 }).WellFormed ∧ ¬ (Instr.copyseg { cmod := 64, imm := 8 }).WellFormed ∧
    ¬ (Instr.mkout {}).WellFormed ∧ ¬ (Instr.adrainm { x := 2048 }).WellFormed ∧ ¬ (Instr.rawait { b := 1 }).WellFormed ∧
    ¬ (Instr.bara {}).WellFormed ∧ ¬ (Instr.wmark { fl := 2 }).WellFormed ∧ ¬ (Instr.tlbinv { fl := 3 }).WellFormed ∧
    ¬ (Instr.vsegld {}).WellFormed ∧ ¬ (Instr.vgathb { aux := 0xF0 }).WellFormed := by decide

/-- No word encodes an event. -/
theorem test_illformed_event : ¬ Instr.stripClose.WellFormed ∧ encode .boot = none := by decide

/-! Words written out in the spec's own examples, and words formed from R34, R36 and R39. -/

theorem test_decode_nop : decode 0x0001_0000_0000_0000_0000_0000 = .ok .nop := rfl
/-- R59's worked program: `addi x5, x5, 1`. -/
theorem test_decode_addi : decode 0x02C0_1450_0000_0000_0000_0001 = .ok (.addi { d := 5, a := 5, imm := 1 }) := rfl
/-- OPC 0x01, FORM 0b11, FN 0x01, D = 3, A = 1, B = 2: `sub x3, x1, x2`. -/
theorem test_decode_sub : decode 0x01C1_0C10_8000_0000_0000_0000 = .ok (.sub { d := 3, a := 1, b := 2 }) := rfl
/-- OPC 0x03, FN 0x01, D = 7, A = 6, POS 4, LEN 8: `bfx x7, x6, 4, 8`. -/
theorem test_decode_bfx : decode 0x03C1_1C60_0000_0000_0000_0804 = .ok (.bfx { d := 7, a := 6, imm := 0x804 }) := rfl
/-- R83's worked program: `loop x6` to slot 0 of its own line. -/
theorem test_decode_loop : decode 0x21C0_0060_0000_0000_0000_0000 = .ok (.loop { a := 6 }) := rfl
theorem test_decode_loopn : decode 0x21C1_0010_0000_0000_0000_0003 = .ok (.loopn { a := 1, tslot := 3 }) := rfl
theorem test_decode_ldd : decode 0x30C3_2450_0000_0000_0000_0000 = .ok (.ldd { d := 9, a := 5 }) := rfl
theorem test_decode_ldw : decode 0x30C2_1C60_0000_5800_0000_0000 = .ok (.ldw { d := 7, a := 6, ord := 1, scope := 3 }) := rfl
theorem test_decode_stw : decode 0x30CA_0060_0900_9800_0000_0000 = .ok (.stw { a := 6, c := 9, ord := 2, scope := 3 }) := rfl
/-- OPC 0x40, FN 0x01, D = 5, X = 64, IMM = 0x0A: `setvli x5, 64, 0x0A`. -/
theorem test_decode_setvli : decode 0x40C1_1400_0000_0040_0000_000A = .ok (.setvli { d := 5, x := 64, imm := 10 }) := rfl
/-- OPC 0x41, FORM 0b10, FN 0x00, D = 2, A = 1, MSK = 3, MZ = 1, IMM = 7. -/
theorem test_decode_vadd : decode 0x4180_0810_0070_0000_0000_0007 =
    .ok (.vadd { form := 2, d := 2, a := 1, msk := 3, mz := 1, imm := 7 }) := rfl
/-- OPC 0x42, FORM 0b00, FN 0x02, D = 1, A = 2, B = 3: `vcmplt m1, v2, v3`. -/
theorem test_decode_vcmplt : decode 0x4202_0420_C000_0000_0000_0000 = .ok (.vcmplt { form := 0, d := 1, a := 2, b := 3 }) := rfl
/-- OPC 0x43, FORM 0b00, FN 0x07, D = 4, A = 1, B = 2, C = 3, FL = 0b1001. -/
theorem test_decode_vfma : decode 0x4307_1010_8309_0000_0000_0000 =
    .ok (.vfma { form := 0, d := 4, a := 1, b := 2, c := 3, fl := 9 }) := rfl
/-- OPC 0x44, FORM 0b00, FN 0x00, D = 4, A = 2, X = 0x28: to FP16 with SAT. -/
theorem test_decode_vcvt : decode 0x4400_1020_0000_0028_0000_0000 = .ok (.vcvt { form := 0, d := 4, a := 2, x := 0x28 }) := rfl
theorem test_decode_vtopk : decode 0x450B_2070_0900_0000_0000_0008 = .ok (.vtopk { form := 0, d := 8, a := 7, c := 9, imm := 8 }) := rfl
/-- OPC 0x46, FORM 0b00, FN 0x06, D = 4, A = 2, B = 8: `vperm v4, v2, v8`. -/
theorem test_decode_vperm : decode 0x4606_1022_0000_0000_0000_0000 = .ok (.vperm { form := 0, d := 4, a := 2, b := 8 }) := rfl
/-- OPC 0x47, FORM 0b11, FN 0x00, D = 1, A = 2, B = 3: `mand m1, m2, m3`. -/
theorem test_decode_mand : decode 0x47C0_0420_C000_0000_0000_0000 = .ok (.mand { d := 1, a := 2, b := 3 }) := rfl
/-- OPC 0x48, FORM 0b11, FN 0x01, D = 4, A = 2: `emv e4, e2`. -/
theorem test_decode_emv : decode 0x48C1_1020_0000_0000_0000_0000 = .ok (.emv { d := 4, a := 2 }) := rfl
/-- OPC 0x80, FORM 0b11, FN 0x01, D = 2, A = 5, IMM = 32: `bsld bs2, 32(x5)`. -/
theorem test_decode_bsld : decode 0x80C1_0850_0000_0000_0000_0020 = .ok (.bsld { d := 2, a := 5, imm := 32 }) := rfl
theorem test_decode_dprod : decode 0x81C0_0000_4201_0000_0000_0000 = .ok (.dprod { b := 1, c := 2, fl := 1 }) := rfl
theorem test_decode_adrain : decode 0x82C2_4002_C000_0003_0000_0000 = .ok (.adrain { d := 16, b := 11, x := 3 }) := rfl
/-- OPC 0x82, FORM 0b11, FN 0x01, D = 4. -/
theorem test_decode_agangBad : decode 0x82C1_1400_0000_0000_0000_0000 = .ok .agangBad := rfl
theorem test_decode_agang : decode 0x82C1_1000_0000_0000_0000_0000 = .ok .agang4 := rfl
theorem test_decode_vldx : decode 0x90C2_0850_4000_0202_0000_0000 = .ok (.vldx { d := 2, a := 5, b := 1, ixw := 2, aux := 2 }) := rfl
theorem test_decode_vgathb : decode 0x90C3_1051_8702_0266_0000_0000 =
    .ok (.vgathb { d := 4, a := 5, b := 6, c := 7, ro := 1, ixw := 2, aux := 0x66 }) := rfl
theorem test_decode_vldr : decode 0x90C4_1051_8701_0000_0000_0000 = .ok (.vldr { d := 4, a := 5, b := 6, c := 7, rot := 1 }) := rfl
/-- OPC 0xA0, FORM 0b11, FN 0x02, D = 3, A = 1, C = 2, ORD 0b11, SCOPE 4, AUX = 1. -/
theorem test_decode_amoadd : decode 0xA0C2_0C10_0200_E001_0000_0000 =
    .ok (.amoadd { d := 3, a := 1, c := 2, ord := 3, scope := 4, aux := 1 }) := rfl
/-- OPC 0xA1, FORM 0b11, FN 0x01, D = 3, A = 1, C = 2, SCOPE 4. -/
theorem test_decode_vfas : decode 0xA1C1_0C10_0200_2000_0000_0000 = .ok (.vfas { d := 3, a := 1, c := 2, scope := 4 }) := rfl
theorem test_decode_copy : decode 0xB0C0_2806_0000_0045_0000_0170 =
    .ok (.copy { d := 10, b := 24, rv := 1, rs := 5, imm := 0x170 }) := rfl
theorem test_decode_copycv : decode 0xB0C1_2802_4000_0045_0000_0000 = .ok (.copycv { d := 10, b := 9, rv := 1, rs := 5 }) := rfl
theorem test_decode_mkout : decode 0xB0C4_2801_4600_8000_0000_0000 = .ok (.mkout { d := 10, b := 5, c := 6, cmod := 0x100 }) := rfl
/-- OPC 0xB1, FORM 0b11, FN 0x02, A = 5, IMM = 1: `rrel x5, 1`. -/
theorem test_decode_rrel : decode 0xB1C2_0050_0000_0000_0000_0001 = .ok (.rrel { a := 5, imm := 1 }) := rfl
theorem test_decode_son : decode 0xB2C0_C001_4000_0000_0000_0000 = .ok (.son { d := 48, b := 5 }) := rfl
theorem test_decode_bapp : decode 0xB3C1_0041_8900_0100_0000_0000 = .ok (.bapp { a := 4, b := 6, c := 9, cmod := 2 }) := rfl
/-- OPC 0xB4, FORM 0b11, FN 0x02, D = 1, A = 5, IMM = 15: the header of ap1. -/
theorem test_decode_apset : decode 0xB4C2_0450_0000_0000_0000_000F = .ok (.apset { d := 1, a := 5, imm := 15 }) := rfl
theorem test_decode_vfork : decode 0xC0C1_0400_0000_0000_0000_0000 = .ok (.vfork { d := 1 }) := rfl
theorem test_decode_vnarrow : decode 0xC0C2_0004_1100_0000_0000_0000 = .ok (.vnarrow { b := 16, c := 17 }) := rfl
/-- OPC 0xC1, FORM 0b11, FN 0x00, D = 8, A = 2, B = 5, IMM = 0x10: levels 0 and 1. -/
theorem test_decode_hgload : decode 0xC1C0_2021_4000_0000_0000_0010 = .ok (.hgload { d := 8, a := 2, b := 5, imm := 0x10 }) := rfl
/-- OPC 0xC8, FORM 0b11, FN 0x00 and FN 0x04 with A = 5, B = 6. -/
theorem test_decode_tasks : decode 0xC8C0_0000_0000_0000_0000_0000 = .ok .endTask ∧
    decode 0xC8C4_0051_8000_0000_0000_0000 = .ok (.barj { a := 5, b := 6 }) := ⟨rfl, rfl⟩
theorem test_decode_fence : decode 0xC9C0_0000_0000_0000_0000_0333 = .ok (.fence { imm := 0x333 }) := rfl
/-- OPC 0xD0, FORM 0b11, FN 0x01, D = 4, A = 5, IMM = 9: `csrw x4, FRM, x5`. -/
theorem test_decode_csrw : decode 0xD0C1_1050_0000_0000_0000_0009 = .ok (.csrw { d := 4, a := 5, imm := 9 }) := rfl
/-- OPC 0xD1, FORM 0b11, FN 0x00 and 0x02. -/
theorem test_decode_system : decode 0xD1C0_0000_0000_0000_0000_0001 = .ok (.ecall { imm := 1 }) ∧
    decode 0xD1C2_0000_0000_0000_0000_0000 = .ok .tret := ⟨rfl, rfl⟩
/-- OPC 0xE0, FORM 0b11, FN 0x01. -/
theorem test_decode_dfan : decode 0xE0C1_0000_4200_0000_0000_0000 = .ok .dfan := rfl
/-- The all-zero word has no instruction (R41). -/
theorem test_decode_zero : decode 0 = .error .unassigned := rfl
/-- A word as the opcode table numbers it is the slot word. -/
theorem test_decode_table : decodeTableWord 96 0x02C0_1450_0000_0000_0000_0001 = some (.addi { d := 5, a := 5, imm := 1 }) := rfl

/-! Single steps. -/

/-- A piece of the next state. -/
def after {α : Type} (i : Instr) (s : State) (f : State → α) : Option α :=
  match exec i s with
  | .next t => some (f t)
  | _ => none

/-- A copy of the entry of a page of task 1 at the frame of the same number, read, written and executed. -/
def copyOf (n : Nat) : TlbCopy := { die := 0, core := some 0, entry := pageEntry 1 n n true true ||| 0xC0000000 }

/-- A task of context 1 on the first hart slot, at page 4, with pages 4 to 6 in its TLB. -/
def task : State := { State.reset with
  hart := { State.reset.hart with run := .running, asid := 1, pc := 0x40000 }
  tlb := [copyOf 4, copyOf 5, copyOf 6] }

/-- The task with scalar registers set. -/
def withX (s : State) (l : List (Reg × Word)) : State := { s with hart := l.foldl (fun h p => h.setX p.1 p.2) s.hart }

/-- The task with VL, VTY and vector registers set. -/
def withV (s : State) (vl vty : Word) (l : List (Nat × Nat)) : State := { s with hart := { s.hart with
  csr := { s.hart.csr with vl, vty }
  own := l.foldl (fun f p => f.setReg p.1 p.2) s.hart.own } }

/-- R70's examples: bfxs gives 0xF5 sign-extended, and bfi clears bits [11:8]. -/
theorem test_bit_fields :
    after (.bfxs { d := 7, a := 6, imm := 0x804 }) (withX task [(6, 0xF50)]) (·.x 7) = some 0xFFFFFFFFFFFFFFF5 ∧
    after (.bfi { d := 6, imm := 0x408 }) (withX task [(6, 0xF50)]) (·.x 6) = some 0x50 := by decide +kernel

/-- R83's worked program: −9 ÷ 5 is −1 and leaves −4; R66's rows for a zero divisor and for −2^63 by −1. -/
theorem test_division :
    after (.div { d := 10, a := 7, b := 8 }) (withX task [(7, -9), (8, 5)]) (·.x 10) = some (-1) ∧
    after (.rem { d := 11, a := 7, b := 8 }) (withX task [(7, -9), (8, 5)]) (·.x 11) = some 0xFFFFFFFFFFFFFFFC ∧
    after (.divu { d := 10, a := 7 }) (withX task [(7, 9)]) (·.x 10) = some (-1) ∧
    after (.rem { d := 10, a := 7, b := 8 }) (withX task [(7, 0x8000000000000000), (8, -1)]) (·.x 10) = some 0 := by decide +kernel

/-- R69: LI sign-extends, and LIHI replaces the upper half. -/
theorem test_constants : after (.li { d := 5, imm := 0xFFFFFFFF }) task (·.x 5) = some (-1) ∧
    after (.lihi { d := 5, a := 5, imm := 0x12345678 }) (withX task [(5, -1)]) (·.x 5) = some 0x12345678FFFFFFFF := by decide +kernel

/-- R11: an access-side destination with an execute-side source loses decoupling once; D = x0 loses nothing (R67). -/
theorem test_decloss : after (.add { d := 5, a := 40, b := 6 }) task (·.hart.counters.decloss) = some 1 ∧
    after (.add { d := 40, a := 40, b := 6 }) task (·.hart.counters.decloss) = some 0 ∧
    after (.add { a := 40, b := 6 }) task (·.hart.counters.decloss) = some 0 := by decide +kernel

/-- R73: the last pass falls through with the counter zero. -/
theorem test_loop_ends : after (.loop { a := 6 }) (withX task [(6, 1)]) (fun t => (t.x 6, t.hart.pc)) = some (0, 0x40001) := by
  decide +kernel

/-- R8: slot 4 is followed by slot 0 of the next line. -/
theorem test_next_line : after .nop { task with hart := { task.hart with pc := 0x40004 } } (·.hart.pc) = some 0x40040 := by
  decide +kernel

/-- R82: EPC of ECALL is the next PC and ECAUSE its code; R22: control is at the trap entry, at firmware privilege. -/
theorem test_ecall : after (.ecall { imm := 7 }) { task with trapEntry := 0x1000 }
    (fun t => (t.hart.csr.epc, t.hart.csr.ecause, t.hart.csr.einfo, t.hart.pc, t.hart.firmware)) =
    some (0x40001, 0x16, 7, 0x1000, true) := by decide +kernel

/-- R75: a byte is sign-extended by LDB and not by LDBU; bytes stand little-endian (R4). -/
theorem test_loads : let s := withX { task with mem := [(0x50000, 0x80), (0x50001, 0x01)] } [(5, 0x50000)]
    after (.ldb { d := 6, a := 5 }) s (·.x 6) = some 0xFFFFFFFFFFFFFF80 ∧ after (.ldbu { d := 6, a := 5 }) s (·.x 6) = some 0x80 ∧
    after (.ldh { d := 6, a := 5 }) s (·.x 6) = some 0x180 := by decide +kernel

/-- R75, R76: a store writes the low bytes; an odd address of a doubleword is misaligned, with EADDR the address. -/
theorem test_store : let s := withX task [(5, 0x50000), (6, 0x1122334455667788)]
    after (.sth { a := 5, c := 6, ofs := 2 }) s (fun t => t.byteAt t.hart.place 0x50003) = some 0x77 ∧
    after (.std { a := 5, c := 6, ofs := 1 }) s (fun t => (t.hart.csr.ecause, t.hart.csr.eaddr)) = some (0x05, 0x50001) := by
  decide +kernel

/-- R247: AMOADD answers the old value, sign-extended, and the location wraps. -/
theorem test_amoadd : let s := withX { task with mem := [(0x50003, 0x80)] } [(5, 0x50000), (6, 0x80000000)]
    after (.amoadd { d := 7, a := 5, c := 6, ord := 3, scope := 4 }) s (fun t => (t.x 7, t.memNat 0x50000 4)) =
      some (0xFFFFFFFF80000000, 0) := by decide +kernel

/-- R89, R126: the grant is min(requested, VLMAX), 64 FP32 elements at G = 1; STRIPN counts the close. -/
theorem test_setvl : after (.setvli { d := 5, x := 100, imm := 0x0A }) task (fun t => (t.x 5, t.hart.csr.vl, t.hart.csr.stripn)) =
    some (64, 64, 1) := by decide +kernel

/-- R127: VADD wraps at the container, VSADD clamps and sets SAT (UINT8 and INT8 at VL 1). -/
theorem test_vadd : after (.vadd { form := 0, d := 3, a := 1, b := 2 }) (withV task 1 0 [(1, 0x7F), (2, 0x01)])
      (fun t => (t.hart.own.reg 3, t.hart.csr.fflags)) = some (0x80, 0) ∧
    after (.vsadd { form := 0, d := 3, a := 1, b := 2 }) (withV task 1 0 [(1, 0x7F), (2, 0x01)])
      (fun t => (t.hart.own.reg 3, t.hart.csr.fflags)) = some (0x7F, 0x20) := by decide +kernel

/-- FP32: 1 + 2 is 3, and 1 ÷ 0 is an infinity with DZ (R129). -/
theorem test_float : after (.vfadd { form := 0, d := 3, a := 1, b := 2 }) (withV task 1 0x0A [(1, 0x3F800000), (2, 0x40000000)])
      (·.hart.own.reg 3) = some 0x40400000 ∧
    after (.vfdiv { form := 0, d := 3, a := 1, b := 2 }) (withV task 1 0x0A [(1, 0x3F800000)])
      (·.hart.own.reg 3) = some 0x7F800000 := by decide +kernel

/-- R143: MPOPC counts below VL alone; MFIRST answers −1 where no bit is set. -/
theorem test_masks : let s := withV { task with hart := task.hart.setM 1 0xF0 } 6 0x0A []
    after (.mpopc { d := 5, a := 1 }) s (·.x 5) = some 2 ∧ after (.mfirst { d := 5, a := 2 }) s (·.x 5) = some (-1) := by
  decide +kernel

/-- R332: bounds that would grow trap with cause *widening*; narrowing to nothing empties the handle. -/
theorem test_vnarrow : let s := withX { task with hart := task.hart.setH 0 (mkHandle 0 100 0 true) } [(16, 0), (17, 101)]
    after (.vnarrow { b := 16, c := 17 }) s (fun t => (t.hart.csr.ecause, t.hart.csr.einfo)) = some (0x0A, 101) ∧
    after (.vnarrow { b := 17, c := 17 }) (withX s [(17, 5)]) (·.hart.getH 0) = some 0 := by decide +kernel

/-- R79, R18: FFLAGS has six bits; a write of a read-only CSR at task privilege is ignored. -/
theorem test_csr : after (.csrw { a := 5, imm := 8 }) (withX task [(5, -1)]) (·.hart.csr.fflags) = some 0x3F ∧
    after (.csrw { a := 5, imm := 1 }) (withX task [(5, 9)]) (·.hart.csr.vl) = some 0 := by decide +kernel

/-- R42, R22, R24: what the second trap in a row does: the device stops. -/
theorem test_fatal : after (.ecall {}) { task with hart := { task.hart with firmware := true } } (·.fatal.isSome) = some true := by
  decide +kernel

/-- A word that is placed for the next step is fetched, decoded and run by it. -/
theorem test_step : (match step (State.reset.withFetchWord 96 0x02C0_1450_0000_0000_0000_0001) with
    | .next t => some (t.x 5, t.hart.pc)
    | _ => none) = some (1, 0x40001) := by decide +kernel

/-! States and operands that meet the hypotheses of the statements, clause by clause, at limits of their ranges. -/

theorem ok_of {ε α : Type} {x : Except ε α} {a : α} (h : x.toOption = some a) : x = .ok a := by
  cases x with
  | error => cases h
  | ok => exact congrArg Except.ok (Option.some.inj h)

theorem error_of {ε α : Type} {x : Except ε α} (h : x.toOption = none) : ∃ e, x = .error e := by
  cases x with
  | error e => exact ⟨e, rfl⟩
  | ok => cases h

theorem result_of {ε σ α : Type} {x : EStateM.Result ε σ α} (h : (match x with | .ok _ _ => true | .error _ _ => false) = true) :
    ∃ a s, x = .ok a s := by
  cases x with
  | ok a s => exact ⟨a, s, rfl⟩
  | error => cases h

/-- Data on page 5 and page 6 of the task. -/
def pageAt (n ofs : Nat) : Target := .page { entry := (copyOf n).entry, at_ := 0, pa := n * 2 ^ 16 + ofs, fresh := false }

theorem refused_of {ε α : Type} {x : Except ε α} (h : x.toOption.isSome = false) : ∃ e, x = .error e := by
  cases x with
  | error e => exact ⟨e, rfl⟩
  | ok => cases h

theorem hit_of {l : Lookup} {f : Xlat → Bool} (h : (match l with | .hit x => f x | _ => false) = true) : ∃ x, l = .hit x ∧ f x = true := by
  cases l with
  | hit x => exact ⟨x, rfl, h⟩
  | absent => cases h
  | poisoned => cases h

/-- The task with a page 8 in its page table that may be read alone. -/
def mapped : State := (task.mapEntry (pageEntry 1 8 8 false false)).getD task

/-- R65, R68: shift amounts at their limits. -/
theorem witness_ScalarArithmetic : (0 : BitVec 32).toNat < 64 ∧ (63 : BitVec 32).toNat < 64 := by decide

/-- R70: a field of one bit at the top, and of all 64. -/
theorem witness_CountsSelectAndBitFields : let f (i : BitVec 32) := (i.toNat % 64, i.toNat / 256 % 128)
    f 0x13F = (63, 1) ∧ f 0x4000 = (0, 64) := by decide

/-- The task at a line of its own code whose every slot is a target. -/
def coded : State := State.reset.withFetchWord 96 0x0001_0000_0000_0000_0000_0000

/-- A transfer that is taken to a target of code, one to a slot without TGT and one to no PC. -/
theorem witness_BranchesAndJumps : isPc 0x40000 = true ∧ coded.refusesTarget 0x40004 = false ∧ isPc 0x40005 = false ∧
    { coded with mem := coded.mem.erase (0x40000 + 60) }.refusesTarget 0x40001 = false ∧
    (coded.setMemBytes 0x4003C (toBytes 4 0x7E03)).refusesTarget 0x40002 = true ∧ coded.hart.firmware = false := by decide +kernel

/-- A nest of 2 by 1 passes. -/
def nest : APReg := BitVec.ofNat 512 (2 + 2 ^ 32 * 2 + 2 ^ 64 * 1)

/-- LOOP at its last pass and before it; a LOOPN whose index 0 has a pass left, one that is complete, and one without dimensions. -/
theorem witness_Loops : task.x 0 ≠ 1 ∧ (withX task [(6, 1)]).x 6 = 1 ∧ APReg.dims nest = 2 ∧ APReg.count nest 0 = 2 ∧ APReg.count nest 1 = 1 ∧
    ¬ (APReg.count nest 0 ≤ (task.hart.csr.lidx.getD 0 0 + 1).toNat) ∧
    (∀ k < 2, APReg.count nest k ≤ ({ task.hart.csr with lidx := #v[1, 0, 0, 0, 0, 0] }.lidx.getD k 0 + 1).toNat) ∧
    APReg.dims 0 = 0 := by decide +kernel

/-- A scalar load from the end of a page, with and without RO. -/
theorem witness_ScalarLoads : let s := withX task [(5, 0x50000)]
    Accessible s s.hart.req (.plain 0x50000) 0xFFF8 8 0x5FFF8 (pageAt 5 0xFFF8) ∧ s.readAddr s.hart.req (pageAt 5 0xFFF8) < scratchBase :=
  ⟨⟨ok_of (by decide +kernel), by decide +kernel, fun _ => by decide +kernel⟩, by decide +kernel⟩

/-- A store to a page and one to the last byte of the scratchpad. -/
theorem witness_ScalarStores : let q := task.hart.req (write := true)
    Accessible task q (.plain 0x50000) 0 8 0x50000 (pageAt 5 0) ∧
    Accessible task q (.plain 0x00FFFFFFFFF4FFFF) 0 1 0x00FFFFFFFFF4FFFF (.scratch 0x4FFFF (2 ^ 52 + 0x4FFFF)) ∧
    task.loses 0x50000 = false ∧ task.heldBack (pageAt 5 0) 0x50000 1 = false :=
  ⟨⟨ok_of (by decide +kernel), by decide +kernel, fun h => by cases h⟩,
    ⟨ok_of (by decide +kernel), by decide +kernel, fun h => by cases h⟩, by decide +kernel, by decide +kernel⟩

/-- A handle of 16 bytes without write permission. -/
def shared : Handle := mkHandle 0 16 0 false

/-- Every check of R76 can be the first that fails. -/
theorem witness_ScalarAccessChecks :
    (0x0100000000000000 : Word).toNat = 2 ^ 56 ∧ (0x50001 : Word).toNat % 2 = 1 ∧
    (Base.view 1 shared).refuses 15 2 = true ∧ (Base.view 1 shared).refuses 14 2 = false ∧ (Base.view 1 shared).readOnly = true ∧
    regionOf 0 0x00FFFF0100000000 = .unassigned ∧ regionOf 0 0x00FFFF00FFFFFFFF = .weights 0 0xFFFFFFFF ∧
    (∃ x, mapped.translate (mapped.hart.req (write := true)) 0x80000 = .hit x ∧ (!x.entry.permits (mapped.hart.req (write := true))) = true) ∧
    { task with poison := [(0, true)] }.translate { task.hart.req with asid := 0 } 0 = .poisoned ∧
    task.translate task.hart.req 0x70000 = .absent false ∧ (task.die 0).queueFull = false ∧ ({ writer := some {} } : Die).queueFull = true ∧
    (let s := { task with poison := [(0xA000, true)] }
     (s.touch s.hart.req (pageAt 5 0)).poisonedRead s.hart.req (pageAt 5 0) 8 false = true) := by
  refine ⟨by decide, by decide, by decide +kernel, by decide +kernel, by decide +kernel, by decide +kernel, by decide +kernel,
    hit_of (by decide +kernel), by decide +kernel, by decide +kernel, by decide +kernel, by decide +kernel, by decide +kernel⟩

theorem some_of {α : Type} {x : Option α} (h : x.isSome = true) : ∃ a, x = some a := Option.isSome_iff_exists.mp h

/-- A walk that finds a migrating page or a plain one; a block of the scratchpad that the context owns, and one that it does not. -/
theorem witness_AccessUpkeep : (∃ x, mapped.translate mapped.hart.req 0x80000 = .hit x ∧ (x.fresh && !x.entry.migrating) = true) ∧
    ({ entry := 0x10000000, at_ := 0, pa := 0, fresh := true } : Xlat).entry.migrating = true ∧
    (∃ x, task.translate task.hart.req 0x50000 = .hit x ∧ (!x.fresh) = true) ∧
    ({ task with tags := [(blockKey {} 0, { owner := some 1 })] }.tags.get ({} : Tag) (blockKey {} 0)).owner = some task.hart.req.asid ∧
    (task.tags.get ({} : Tag) (blockKey {} 0x4FFFF)).owner ≠ some task.hart.req.asid ∧
    (task.byteAt (dieUnit 0) 0x80000).getLsbD 0 = false ∧ { task with mem := [(0x80000, 1)] }.byteAt (dieUnit 0) 0x80000 = 1 ∧
    (pageAt 5 0).replicated = none ∧ task.readOnlyLine task.hart.req (pageAt 5 0) = none ∧
    task.readAddr task.hart.req (pageAt 5 0) % 64 = 0x50000 % 64 :=
  ⟨hit_of (by decide +kernel), by decide +kernel, hit_of (by decide +kernel), by decide +kernel, by decide +kernel, by decide +kernel,
    by decide +kernel, by decide +kernel, by decide +kernel, by decide +kernel⟩

/-- A copy of one byte, from page 5 to page 6, that the task has pushed. -/
def byteCopy : Cmd := { place := {}, asid := 1, kind := .copy 1 { pattern := none, size := 1, base := 0x50000 } { pattern := none, size := 1, base := 0x60000 } }

def busy : State := { task with cmds := [byteCopy] }

/-- A store of one byte to page 5 by the task that pends for the package, or that its hart holds. -/
def pending (held : Bool) : PendStore := { id := 0, place := {}, held, address := 0x50000, bytes := [1] }

/-- An older command of the task holds bytes that a later access names. -/
theorem witness_claimed : let s := { task with cmds := [{ byteCopy with
      claims := claimOf ({ pattern := none, size := 1, base := 0x60000 } : Side) true [((0x60000 : Word), Located.at_ (.scratch 0 (2 ^ 52)))] }] }
    s.claimed {} (.scratch 0 (2 ^ 52)) 1 false = true := by decide +kernel

/-- A fence of stores at package scope where one store is pending, one of commands that waits, one within the die, and one at core scope
of a store that the hart holds. -/
theorem witness_FencesAndReleases : (0x433 : BitVec 32).getLsbD 2 = false ∧ (0x433 : BitVec 32).getLsbD 1 = true ∧
    4 ≤ (0x433 : BitVec 32).toNat / 256 % 8 ∧ (0x333 : BitVec 32).toNat / 256 % 8 < 4 ∧ 1 ≤ (0x133 : BitVec 32).toNat / 256 % 8 ∧
    (0x444 : BitVec 32).getLsbD 2 = true ∧ busy.commandPending busy.hart.place = true ∧ task.loses 0x50000 = false ∧
    (pending false).overlaps 0x50000 1 = true ∧ (pending false).visible task.hart.place = true ∧
    (pending true).overlaps 0x50000 1 = true ∧ (pending true).visible task.hart.place = true ∧
    (pending true).place = task.hart.place ∧ (pending true).visible { slot := 1 } = false := by
  decide +kernel

/-- One word of page 5 for an atomic; AMOFADD runs, since DET is clear. -/
theorem witness_ScalarAtomics : let q := task.hart.req (write := true) (atomic := true)
    task.precheck q (.plain 0x5FFF8) 8 [{ idx := 0, off := 0 }] = .ok [{ idx := 0, va := 0x5FFF8, loc := .at_ (pageAt 5 0xFFF8) }] ∧
    task.claimed q.place (pageAt 5 0xFFF8) 8 true = false ∧ (task.atSlice q (pageAt 5 0xFFF8) 8).poisonIn q.place 0x5FFF8 0x5FFF8 8 = false ∧ task.hart.det = false :=
  ⟨ok_of (by decide +kernel), by decide +kernel, by decide +kernel, by decide +kernel⟩

theorem witness_ScalarAccessChecks_atomics : (0x0100000000000000 : Word).toNat = 2 ^ 56 ∧ regionOf 0 0x00FFFF0100000000 = .unassigned ∧
    (0x50004 : Word).toNat % 8 ≠ 0 ∧ regionOf 0 0x50004 ≠ .unassigned ∧ (Base.view 1 shared).refuses 16 8 = true ∧
    (Base.view 1 shared).refuses 8 8 = false ∧ (Base.view 1 shared).readOnly = true ∧ (Base.plain 0).readOnly = false ∧
    regionOf 0 0x00FFFF0000000000 = .weights 0 0 ∧ { task.hart with det := true }.det = true := by decide +kernel

/-- Operands at the ends of the vector file, at G = 1 and at G = 8. -/
theorem witness_vector_operands :
    OperandsOk (withV task 4 0 []) [Opd.of 63 1, Opd.of 0 1, Opd.of 2 1] ∧ OperandsOk (withV task 4 0x60 []) [Opd.of 56 8, Opd.of 0 8] ∧
    (∀ fmt ∈ [0, 7], isInt fmt = true) ∧ (∀ fmt ∈ [8, 0x0C], isFp fmt = true) ∧ isDefined 0x18 = true ∧ isBfp 0x10 = true ∧ isBfp 0x16 = true :=
  ⟨by unfold OperandsOk; decide +kernel, by unfold OperandsOk; decide +kernel, by decide, by decide, by decide, by decide, by decide⟩

/-- A mask register that a task may write, and one that firmware may. -/
theorem witness_VectorCompares : (6 : Reg).toNat < 7 ∧ 1 ≤ (1 : Reg).toNat ∧ (7 : Reg).toNat = 7 ∧ { task.hart with firmware := true }.firmware = true := by
  decide

/-- Conversions to and from block formats that keep within groups of 8 and within the file. -/
theorem witness_ClassesAndConversions : let c := (withV task 4 0x0A []).cfg
    c.g * container 0x06 / c.w = 2 ∧ c.g * container 0x10 / c.w ≤ 8 ∧ isFp c.fmt = true ∧ isBfp 0x10 = true ∧
    (container 0x04 = c.w ∧ (3 : Reg) = 3) ∧ (0 + 2 ≤ (2 : Nat)) := by decide +kernel

/-- Sources apart from the destination. -/
theorem witness_ScansAndUnorderedSums : (withV task 64 0x0A []).cfg.g * 32 / (withV task 64 0x0A []).cfg.w = 1 ∧ task.hart.det = false ∧
    { task.hart with det := true }.det = true ∧ (3 + 1 ≤ (4 : Nat)) ∧
    OperandsOk (withV task 64 0x0A []) [Opd.of 3 1, Opd.of 4 1, Opd.of 5 1] :=
  ⟨by decide +kernel, by decide +kernel, by decide, by decide, by unfold OperandsOk; decide +kernel⟩

/-- k at both ends of its range for 64 elements. -/
theorem witness_Selections : (withV task 64 0x0A []).cfg.vlmax = 64 ∧ 1 ≤ (1 : BitVec 32).toNat ∧ (64 : BitVec 32).toNat ≤ 64 := by
  decide +kernel

/-- Elements at the ends of a group of 64; a mask with a first element and one with none below VL. -/
theorem witness_MovesAndPermutes : let s := withV { task with hart := task.hart.setM 1 0xF0 } 5 0x0A []
    (63 : Nat) < s.cfg.vlmax ∧ 4 < s.cfg.vl ∧ (s.hart.getM 1).getLsbD 4 = true ∧ (∀ k < 4, (s.hart.getM 1).getLsbD k = false) ∧
    (∀ e < s.cfg.vl, (s.hart.getM 2).getLsbD e = false) ∧ s.cfg.g * 16 / s.cfg.w ≤ 8 := by decide +kernel

theorem witness_MaskAndScaleInstructions : (withV task 4 0 []).cfg.w ≤ 8 ∧ ((63 : Reg).toNat % 1 = 0 ∧ (63 : Reg).toNat + 1 ≤ 64) ∧
    8 < (withV task 4 0x0A []).cfg.w ∧ ¬ ((57 : Reg).toNat % 8 = 0) := by decide +kernel

/-- A stream of eight words of page 5, half read, and the state in which its strip stands in the register. -/
def strm : Stream := { pattern := BitVec.ofNat 512 (1 + 16 * 2 + 2 ^ 32 * 8 + 2 ^ 224 * 4), base := 0x50000, list := 0, view := none, pos := 4
                       buf := [.value 1, .value 2, .value 3, .value 4] }

def streaming : State := withV { task with hart := task.hart.setStream 48 (some strm) } 4 4 []

theorem witness_VectorOperands : streaming.hart.stream 48 = some strm ∧ streaming.cfg.g = 1 ∧ streaming.cfg.w = 8 * APReg.size strm.pattern ∧
    strm.pos < APReg.total strm.pattern ∧ (∀ e < 4, strm.buf[e]? = some (.value ([1, 2, 3, 4].getD e 0))) ∧
    streaming.hart.streams? (Opd.of 48 1) = true ∧ (Opd.of 63 2).ok 64 = false ∧
    OperandsOk { streaming with hart := { streaming.hart.setStream 48 none with own := streaming.hart.own.setReg 48 (packElems 32 [1, 2, 3, 4]) } }
      [Opd.of 3 1, Opd.of 48 1, Opd.of 2 1] :=
  ⟨by decide +kernel, by decide +kernel, by decide +kernel, by decide +kernel, by decide +kernel, by decide +kernel, by decide +kernel,
    by unfold OperandsOk; decide +kernel⟩

/-- A type that R86 accepts and one that it rejects, with a watermark that suffices for the strip and one that does not. -/
theorem witness_StripClose : let s := { task with hart := { task.hart with task := { task.hart.task with wmaddr := some 0x50000 } } }
    isDefined (0x0A % 32) = true ∧ ¬ ((0x200 : Word).toNat < 512) ∧ isDefined 0x1F = false ∧ task.hart.task.wmaddr = none ∧
    Accessible s s.hart.req (.plain 0x50000) 0 8 0x50000 (pageAt 5 0) ∧
    s.hart.csr.wmbase + s.hart.csr.vl + 0 ≤ BitVec.ofNat 64 (s.readNat s.hart.place 0x50000 8) ∧
    BitVec.ofNat 64 (s.readNat s.hart.place 0x50000 8) < s.hart.csr.wmbase + s.hart.csr.vl + 1 ∧
    task.strengthened = false ∧ busy.commandPending busy.hart.place = true ∧
    { busy with hart := { busy.hart with task := { busy.hart.task with mmrev := 1 } } }.strengthened = true :=
  ⟨by decide, by decide, by decide, by decide +kernel, ⟨ok_of (by decide +kernel), by decide +kernel, fun _ => by decide +kernel⟩,
    by decide +kernel, by decide +kernel, by decide +kernel, by decide +kernel, by decide +kernel⟩

/-- A core whose one task asks for the lanes of VL, and one whose task has DET. -/
theorem witness_LaneDeal : (∀ h ∈ task.harts, ¬ (h.place.die = 0 ∧ h.place.core = 0 ∧ h.run = .running ∧ h.det = true)) ∧
    (∀ h ∈ { task with hart := { task.hart with det := true } }.harts, h.place.die = 0 ∧ h.place.core = 0 ∧ h.run = .running ∧ h.det = true) ∧
    (withV task 64 0x0A []).demandAt 0 0 0 = 16 ∧ task.demandAt 0 0 3 = 0 := by decide +kernel

theorem witness_BandAndPatternRegisters : let q := task.hart.req
    Accessible task q (.plain 0x50000) 0 32 0x50000 (pageAt 5 0) ∧ Accessible task q (.plain 0x50000) 0xFFC0 64 0x5FFC0 (pageAt 5 0xFFC0) ∧
    Accessible task { q with write := true } (.plain 0x60000) 0 64 0x60000 (pageAt 6 0) ∧ (7 : Reg).toNat < 8 ∧
    (13 : BitVec 32).toNat < 14 ∧ (5 : BitVec 32).toNat < 6 :=
  ⟨⟨ok_of (by decide +kernel), by decide +kernel, fun _ => by decide +kernel⟩,
    ⟨ok_of (by decide +kernel), by decide +kernel, fun _ => by decide +kernel⟩,
    ⟨ok_of (by decide +kernel), by decide +kernel, fun h => by cases h⟩, by decide, by decide, by decide⟩

/-- A band register of 256 by 256 with one entry on the main diagonal. -/
def bandAt (base off0 row0 : Nat) : EReg := BitVec.ofNat 256 (base + 64 + 2 ^ 32 + 2 ^ 40 * off0 + 2 ^ 64 * row0 + 2 ^ 96 * 256 + 2 ^ 128 * 256)

/-- A tile whose window is 256 bytes wide, and bands that pass the issue checks. -/
def banded (offB : Nat) : State := withV { task with hart := { (((task.hart.setBS 0 (bandAt 0 0 0)).setBS 1 (bandAt 8 offB 0)).setBS 2 (bandAt 0 0 0)) with
  ac := #v[.mapped { win := 256 }, .unmapped, .unmapped, .unmapped, .unmapped, .unmapped, .unmapped, .unmapped]
  task := { task.hart.task with accs := 1 } } } 4 0 []

/-- DPROD of two diagonals onto the target's own diagonal; onto another it is fill-in; and bands that no check passes. -/
theorem witness_DiagonalInstructions : let o : GOp := { a := 0, b := 1, c := 2 }
    (∃ r, (banded 0).hart.diagonalLegal .dprod o = some r) ∧
    (((banded 0).hart.diagonalLegal .dprod o).bind fun r => r.offender false) = none ∧
    (((banded 0).hart.diagonalLegal .dprod o).all fun r => r.ownWindows.all fun k => ((banded 0).hart.stream k).isNone) = true ∧
    (((banded 1).hart.diagonalLegal .dprod o).bind fun r => r.offender true).isSome = true ∧
    task.hart.diagonalLegal .dprod o = none :=
  ⟨some_of (by decide +kernel), by decide +kernel, by decide +kernel, by decide +kernel, by decide +kernel⟩

/-- A free tile for a name, no free tile, and names beyond ACCS. -/
theorem witness_AccumulatorAllocation : let s := banded 0
    (s.retireName 0).hart.freeTiles ≥ 1 ∧ engineFmt s.cfg.fmt = true ∧ s.hart.task.accs ≥ (s.retireName 0).hart.held + 1 ∧
    task.hart.task.accs < task.hart.held + 1 ∧ s.hart.getAC 0 ≠ .member ∧
    { s with hart := { s.hart with retiring := 8 } }.hart.freeTiles < 4 ∧
    (∀ n ∈ [1, 2, 3], ∀ t, task.hart.getAC n = .mapped t → t.gang = false) :=
  ⟨by decide +kernel, by decide +kernel, by decide +kernel, by decide +kernel, by decide +kernel, by decide +kernel, by
    intro n hn t h
    have all : ∀ n ∈ [1, 2, 3], task.hart.getAC n = .unmapped := by decide +kernel
    rw [all n hn] at h
    cases h⟩

theorem witness_AccumulatorTransfers : (banded 0).hart.getAC 0 = .mapped { win := 256 } ∧ isInt (banded 0).cfg.fmt = true ∧
    0 * 256 + (banded 0).cfg.vl ≤ ({ win := 256 } : Tile).size ∧ isWord32 0x0A = true ∧
    (let q := (banded 0).hart.req (write := true) (atomic := true)
     ((banded 0).precheck q (.plain 0x50000) 4 [{ idx := 0, off := 0 }]).toOption = some [{ idx := 0, va := 0x50000, loc := .at_ (pageAt 5 0) }] ∧
     (banded 0).claimed q.place (pageAt 5 0) 4 true = false ∧
     ((banded 0).atSlice q (pageAt 5 0) 4).poisonIn q.place 0x50000 0x50000 4 = false) := by decide +kernel

/-- Every element is present, and no command holds its bytes. -/
def presentAll (s : State) (q : Req) (n : Nat) (l : List Placed) : Bool :=
  l.all fun p => match p.loc with
    | .at_ t => !(s.claimed q.place t n q.write)
    | .absent _ => false

theorem present_of {s : State} {q : Req} {n : Nat} {l : List Placed} (h : presentAll s q n l = true) : Present s q n l := by
  intro p hp
  have := List.all_eq_true.mp h p hp
  cases hl : p.loc with
  | absent => simp [hl] at this
  | at_ t =>
    simp only [hl, Bool.not_eq_true'] at this
    exact ⟨t, rfl, this⟩

/-- No element of a load meets poison, as a computation. -/
def clean (q : Req) (n : Nat) : State → List Placed → Bool
  | _, [] => true
  | s, p :: rest =>
    match p.loc with
    | .absent _ => clean q n s rest
    | .at_ t => !((s.touch q t).poisonedRead q t n false) && clean q n (s.readOnce q t n false).1 rest

theorem clean_of {q : Req} {n : Nat} : ∀ {l : List Placed} {s : State}, clean q n s l = true → CleanReads q n false s l
  | [], _, _ => trivial
  | p :: rest, s, h => by
    unfold clean at h
    unfold CleanReads
    split at h <;> rename_i hl
    · simpa only [hl] using clean_of h
    · simp only [Bool.and_eq_true, Bool.not_eq_true'] at h
      simpa only [hl] using And.intro h.1 (clean_of h.2)

theorem elements_of {s : State} {q : Req} {b : Base} {n : Nat} {l : List Elem}
    (h : (match s.precheck q b n l with | .ok p => presentAll s q n p && clean q n s p | .error _ => false) = true) :
    ∃ p, s.precheck q b n l = .ok p ∧ Present s q n p ∧ CleanReads q n false s p := by
  cases hp : s.precheck q b n l with
  | error e => simp [hp] at h
  | ok p =>
    simp only [hp, Bool.and_eq_true] at h
    exact ⟨p, rfl, present_of h.1, clean_of h.2⟩

theorem stored_of {s : State} {q : Req} {b : Base} {n : Nat} {l : List Elem}
    (h : (match s.precheck q b n l with | .ok p => presentAll s q n p | .error _ => false) = true) :
    ∃ p, s.precheck q b n l = .ok p ∧ Present s q n p := by
  cases hp : s.precheck q b n l with
  | error e => simp [hp] at h
  | ok p => exact ⟨p, rfl, present_of (by simpa [hp] using h)⟩

/-- Four words of page 5, the last ending the page: elements of VLD, VLDS, VLDX, VST, VSTS and VSTX alike. -/
def words (s : State) : List Elem :=
  ((List.range s.cfg.vl).filter (s.hart.pending 0)).map fun e => { idx := e, off := 0x5FFF0 + ((e * s.cfg.w / 8 : Nat) : Int) }

def four : State := withV task 4 0x0A []

theorem witness_VectorLoads : isDefined four.cfg.fmt = true ∧ (Opd.of 3 1).ok four.hart.task.vregs = true ∧
    four.hart.streams? (Opd.of 3 1) = false ∧ four.hart.csr.elx = 0 ∧
    ∃ p, four.precheck four.hart.req (.plain 0) 4 (words four) = .ok p ∧ Present four four.hart.req 4 p ∧ CleanReads four.hart.req 4 false four p :=
  ⟨by decide +kernel, by decide +kernel, by decide +kernel, by decide +kernel, elements_of (by decide +kernel)⟩

/-- A probe of two words at the end of page 8, which the page table names, and two on page 9. -/
theorem witness_VectorLoads_probe : let q : Req := { mapped.hart.req with walks := true }
    (match mapped.precheck q (.plain 0x8FFF8) 4 ((List.range 4).map fun e => { idx := e, off := ((e * 4 : Nat) : Int) }) with
      | .ok l => (clean q 4 mapped l, l.map fun p => match p.loc with
        | .at_ t => !(mapped.claimed q.place t 4 false)
        | .absent _ => false)
      | .error _ => (false, [])) = (true, [true, true, false, false]) ∧ mapped.hart.csr.elx = 0 ∧ (1 : Reg).toNat ≤ 6 := by decide +kernel

theorem witness_VectorStores : let q := four.hart.req (write := true)
    ∃ p, four.precheck q (.plain 0) 4 (words four) = .ok p ∧ Present four q 4 p := stored_of (by decide +kernel)

/-- One scale byte and one mask byte, from the last byte of a page. -/
theorem witness_ScaleAndMaskTransfers : let s := withV task 1 0 []
    s.cfg.w ≤ 8 ∧ ((s.cfg.vl + 31) / 32 = 1 ∧ (s.cfg.vl + 7) / 8 = 1) ∧
    (∃ p, s.precheck s.hart.req (.plain 0x5FFFF) 1 [{ idx := 0, off := 0 }] = .ok p ∧ Present s s.hart.req 1 p ∧ CleanReads s.hart.req 1 false s p) ∧
    ∃ p, s.precheck (s.hart.req (write := true)) (.plain 0x5FFFF) 1 [{ idx := 0, off := 0 }] = .ok p ∧
      Present s (s.hart.req (write := true)) 1 p :=
  ⟨by decide +kernel, by decide +kernel, elements_of (by decide +kernel), stored_of (by decide +kernel)⟩

/-- A table of two entries of 32 bits, 0 and 1, with blocks of 64 bytes; the bound lets both in, or the first alone. -/
theorem witness_BlockGathers : let s := withV task 4 0x0A [(2, 2 ^ 32)]
    ceilDiv (s.cfg.vl * s.cfg.w / 8) (2 ^ 3) ≤ 2048 / 32 ∧ (Opd.of 3 1).disjoint (Opd.of 2 1) = true ∧
    OperandsOk s [Opd.of 3 1, Opd.of 2 1] ∧ elemAt 32 (s.hart.own.reg 2) 0 = 0 ∧ elemAt 32 (s.hart.own.reg 2) (8 / 2 ^ 3) = 1 ∧
    ∃ p, s.precheck s.hart.req (.plain 0x50000) 4 [{ idx := 0, off := 0 }, { idx := 1, off := 4 }, { idx := 2, off := 64 }, { idx := 3, off := 68 }]
      = .ok p ∧ Present s s.hart.req 4 p ∧ CleanReads s.hart.req 4 false s p :=
  ⟨by decide +kernel, by decide +kernel, by unfold OperandsOk; decide +kernel, by decide +kernel, by decide +kernel,
    elements_of (by decide +kernel)⟩

/-- No element of a vector atomic meets poison, as a computation. -/
def cleanWords (q : Req) (n : Nat) (f : Nat → Nat → Option Nat × Flags) : State → List Placed → Bool
  | _, [] => true
  | s, p :: rest =>
    match p.loc with
    | .absent _ => cleanWords q n f s rest
    | .at_ t => !((s.touch q t).poisonIn q.place t.pa t.pa n) && cleanWords q n f ((s.touch q t).atomicAt q t n (f p.idx)).1 rest

theorem cleanWords_of {q : Req} {n : Nat} {f : Nat → Nat → Option Nat × Flags} :
    ∀ {l : List Placed} {s : State}, cleanWords q n f s l = true → CleanAtomics.go q n f s l
  | [], _, _ => trivial
  | p :: rest, s, h => by
    unfold cleanWords at h
    unfold CleanAtomics.go
    split at h <;> rename_i hl
    · simpa only [hl] using cleanWords_of h
    · simp only [Bool.and_eq_true, Bool.not_eq_true'] at h
      simpa only [hl] using And.intro h.1 (cleanWords_of h.2)

theorem atomics_of {s : State} {q : Req} {b : Base} {n : Nat} {f : Nat → Nat → Option Nat × Flags} {l : List Elem}
    (h : (match s.precheck q b n l with
      | .ok p => presentAll s q n p && (p.all fun x => match x.loc with
          | .at_ t => !((s.settleTargets q n (targetsOf p)).poisonIn q.place t.pa t.pa n)
          | .absent _ => true) && cleanWords q n f (s.settleTargets q n (targetsOf p)) p
      | .error _ => false) = true) :
    ∃ p, s.precheck q b n l = .ok p ∧ Present s q n p ∧ CleanAtomics q n f s p := by
  cases hp : s.precheck q b n l with
  | error e => simp [hp] at h
  | ok p =>
    simp only [hp, Bool.and_eq_true] at h
    refine ⟨p, rfl, present_of h.1.1, fun x hx t ht => ?_, cleanWords_of h.2⟩
    have := List.all_eq_true.mp h.1.2 x hx
    simpa only [ht, Bool.not_eq_true'] using this

theorem witness_VectorAtomics : let q := four.hart.req (write := true) (atomic := true)
    (Amo.ofCode 10).getD .swap = .fadd ∧ four.cfg.fmt = 0x0A ∧ (4 ≤ (withV task 4 4 []).cfg.fmt ∧ (withV task 4 4 []).cfg.fmt ≤ 7) ∧
    OperandsOk four [Opd.of 3 1, Opd.of 2 1, Opd.of 4 1] ∧ (List.range four.cfg.vl).filter (four.hart.selected 0) ≠ [] ∧
    (List.range (withV task 0 4 []).cfg.vl).filter ((withV task 0 4 []).hart.selected 0) = [] ∧
    ∃ p, four.precheck q (.plain 0) 4 (words four) = .ok p ∧ Present four q 4 p ∧
      CleanAtomics q 4 (fun _ old => Amo.apply .fadd 32 old 0 0) four p :=
  ⟨by decide +kernel, by decide +kernel, by decide +kernel, by unfold OperandsOk; decide +kernel, by decide +kernel, by decide +kernel,
    atomics_of (by decide +kernel)⟩

/-- No group of elements meets poison, as a computation. -/
def cleanAll (q : Req) (n : Nat) : State → List (List Placed) → Bool
  | _, [] => true
  | s, g :: rest =>
    (g.all fun p => match p.loc with
      | .at_ t => !((s.touchAll q g).poisonedRead q t n false)
      | .absent _ => true) && cleanAll q n (State.readPlaced q n false (s.touchAll q g) g).1 rest

theorem cleanAll_of {q : Req} {n : Nat} : ∀ {l : List (List Placed)} {s : State}, cleanAll q n s l = true → CleanGroups q n false s l
  | [], _, _ => trivial
  | g :: rest, s, h => by
    simp only [cleanAll, Bool.and_eq_true] at h
    refine ⟨fun p hp t ht => ?_, cleanAll_of h.2⟩
    have := List.all_eq_true.mp h.1 p hp
    simpa only [ht, Bool.not_eq_true'] using this

theorem groups_of {s : State} {q : Req} {b : Base} {n : Nat} {l : List Elem} {f : List Placed → List (List Placed)}
    (h : (match s.precheck q b n l with | .ok p => presentAll s q n p && cleanAll q n s (f p) | .error _ => false) = true) :
    ∃ p, s.precheck q b n l = .ok p ∧ Present s q n p ∧ CleanGroups q n false s (f p) := by
  cases hp : s.precheck q b n l with
  | error e => simp [hp] at h
  | ok p =>
    simp only [hp, Bool.and_eq_true] at h
    exact ⟨p, rfl, present_of h.1, cleanAll_of h.2⟩

/-- A header of VLDR for records of 8 elements with two pairs, and a pattern of four records of two fields. -/
theorem witness_RotaryAndRecordLoads : let h := 8 + 2 ^ 32 * 4
    (rotaryOf h).rd = 8 ∧ (rotaryOf h).ok h = true ∧ 8 % (rotaryOf h).rd = 0 ∧
    APReg.wellFormed (BitVec.ofNat 512 (1 + 16 * 2 + 2 ^ 32 * 4 + 2 ^ 224 * 8)) = true ∧ four.cfg.g = 1 ∧ 62 + 2 ≤ min 64 four.hart.task.vregs ∧
    (∃ p, four.precheck four.hart.req (.plain 0x50000) 4 ((List.range 4).map fun e => { idx := e, off := ((e * 8 : Nat) : Int) }) = .ok p ∧
      Present four four.hart.req 4 p ∧ CleanGroups four.hart.req 4 false four [p]) ∧
    ∃ p, four.precheck four.hart.req (.plain 0) 4 (words four) = .ok p ∧ Present four four.hart.req 4 p ∧
      CleanGroups four.hart.req 4 false four ((unitsOf (rotaryOf h) p).map (·.elems)) :=
  ⟨by decide +kernel, by decide +kernel, by decide +kernel, by decide +kernel, by decide +kernel, by decide +kernel,
    groups_of (f := fun p => [p]) (by decide +kernel), groups_of (f := fun p => (unitsOf (rotaryOf (8 + 2 ^ 32 * 4)) p).map (·.elems))
      (by decide +kernel)⟩

/-- A ring on page 5 with two slots of 128 bytes, one filled, and the header's two reads. -/
def ringed (state : Nat) : State :=
  (withX task [(5, 0x50000), (6, 0x60000)]).setMemBytes 0x50000
    (toBytes 0x48 (0x60000 + 2 ^ 64 * 128 + 2 ^ 96 * 2 + 2 ^ 128 * 1 + 2 ^ 192 * 1 + 2 ^ 512 * state))

theorem ring_page (s : State) (q : Req) (n ofs : Nat) (h : (s.checkAccess { q with only := [0] } (.plain (0x50000 + word ofs)) 0 n).toOption =
      some (0x50000 + word ofs, .at_ (pageAt 5 ofs)))
    (c : Entry.cls (copyOf 5).entry = 0 ∧ (0x50000 + word ofs).toNat < 2 ^ 56 ∧ (0x50000 + word ofs).toNat % n = 0 ∧
      regionOf q.place.die (0x50000 + word ofs) = .paged ∧
      (s.touch q (pageAt 5 ofs)).poisonIn q.place (pageAt 5 ofs).pa (pageAt 5 ofs).pa n = false) {reads : Bool} :
    RingPage s q (0x50000 + word ofs) n (pageAt 5 ofs) reads :=
  ⟨c.2.1, c.2.2.1, c.2.2.2.1, ok_of h, fun _ => c.2.2.2.2⟩

theorem witness_RingInstructions : let s := ringed (2 ^ 63)
    RingPage s s.hart.req (0x50000 + word 0) 64 (pageAt 5 0) ∧ RingPage s (s.hart.req (write := true)) (0x50000 + word 0) 64 (pageAt 5 0) ∧
    RingPage s s.hart.req (0x50000 + word 64) 8 (pageAt 5 64) ∧
    (ringOf (s.memNat 0x50000 64)).ok (s.memNat 0x50000 64) = true ∧ (s.memNat 0x50040 8).testBit 63 = true ∧
    ((ringed 0).memNat 0x50040 8).testBit 63 = false ∧ (ringOf 0).ok 0 = false ∧ (s.x 6).toNat % 128 = 0 ∧
    ringGeometryOk 1 128 = true ∧ ringGeometryOk 4096 16777088 = true ∧
    RingPages (s.hart.req (write := true)) 8 false s [(0x50000 + word 64, pageAt 5 64), (0x50000 + word 72, pageAt 5 72)] :=
  ⟨ring_page _ _ _ _ (by decide +kernel) (by decide +kernel), ring_page _ _ _ _ (by decide +kernel) (by decide +kernel),
    ring_page _ _ _ _ (by decide +kernel) (by decide +kernel), by decide +kernel, by decide +kernel, by decide +kernel, by decide +kernel,
    by decide +kernel, by decide, by decide,
    ring_page _ _ _ _ (by decide +kernel) (by decide +kernel), ring_page _ _ _ _ (by decide +kernel) (by decide +kernel), trivial⟩

/-- A header that both checks pass, with a claim left to make. -/
theorem witness_claims : let s := ringed (2 ^ 63)
    ∃ c u, Claims s (some (0x50000 + word 0)) (some 128) (some c) u :=
  let s := ringed (2 ^ 63)
  let q := s.hart.req (write := true) (atomic := true)
  let u := (((s.touch q (pageAt 5 0)).touch { q with write := false, atomic := false } (pageAt 5 0)).atSlice q (pageAt 5 0) 64)
  ⟨_, u, ringOf (u.memNat 0x50000 64), pageAt 5 0,
    ⟨pageAt 5 0, ring_page _ _ _ _ (by decide +kernel) (by decide +kernel), ring_page _ _ _ _ (by decide +kernel) (by decide +kernel), rfl,
      rfl, by decide +kernel⟩, by intro n h; cases h; decide +kernel, by decide +kernel, rfl⟩

/-- A late failure that a full slot carries, and a wait whose promised cycle has passed. -/
theorem witness_RingInstructions_stops :
    (let l : Late := { cause := .pageFault, address := 0x70000, seq := 5, slot := some 0x50040 }
     [l].find? (fun l => l.seq.toNat == (2 ^ 63 + 5) % 2 ^ 32 && l.slot == some 0x50040) = some l ∧ (2 ^ 63 + 5).testBit 63 = true) ∧
    ((ringed 0).x 7 < { ringed 0 with cycle := 1 }.cycle ∧ (ringed 0).cycle ≤ (ringed 0).x 7 ∧ (0 : Nat).testBit 63 = false) := by decide +kernel

/-- A record of 4 words. -/
def record4 : APReg := BitVec.ofNat 512 (1 + 16 * 2 + 2 ^ 32 * 4 + 2 ^ 224 * 4)

def copying : State := withX { task with hart := task.hart.setAP 0 record4 } [(8, 0x50000), (9, 0x60000)]

/-- COPY x10 from ap0 at page 5 to page 6 without a ring. -/
def copyOp : EOp := { d := 10, a := 0, b := 8, c := 9 }

theorem side_of {s : State} {q : Req} {sd : Side} {k n : Nat} {w st : Bool}
    (h : (s.checkAffine q sd k n w st).toOption.isSome = true) : ∃ l, s.checkAffine q sd k n w st = .ok l :=
  let ⟨l, hl⟩ := some_of h
  ⟨l, ok_of hl⟩

theorem witness_CommandDispatch : let s := copying
    patternFault copyOp (s.srcSide copyOp) (s.dstSide copyOp 4) true 4 = none ∧
    (∃ l, s.checkAffine s.hart.req (s.srcSide copyOp) 8 4 false false = .ok l) ∧
    (∃ l, s.checkAffine s.hart.req (s.dstSide copyOp 4) 9 4 true false = .ok l) ∧ usesBuffer copyOp = false ∧
    Claims (s.afterReads (commandReads copyOp)) none none none (s.afterReads (commandReads copyOp)) :=
  ⟨by decide +kernel, side_of (by decide +kernel), side_of (by decide +kernel), by decide +kernel, rfl, rfl⟩

/-- A record without dimensions, a source on no page, and a protected source with an ordinary destination. -/
theorem witness_CommandChecks : patternFault copyOp (task.srcSide copyOp) (task.dstSide copyOp 1) true 1 = some 1 ∧
    (∃ t, (withX copying [(8, 0x00FFFF0100000000)]).checkAffine copying.hart.req ((withX copying [(8, 0x00FFFF0100000000)]).srcSide copyOp)
      8 4 false false = .error t) ∧
    (let e := pageEntry 1 5 5 true false ||| 0xC0000000 ||| 0x3000000000
     let s := { copying with tlb := [{ copyOf 5 with entry := e }, copyOf 6] }
     Entry.cls e = 3 ∧ (∃ l, s.checkAffine s.hart.req (s.srcSide copyOp) 8 4 false false = .ok l) ∧
     ∃ l, s.checkAffine s.hart.req (s.dstSide copyOp 4) 9 4 true false = .ok l) ∧ copying.hart.firmware = false :=
  ⟨by decide +kernel, error_of (by decide +kernel), ⟨by decide +kernel, side_of (by decide +kernel), side_of (by decide +kernel)⟩,
    by decide +kernel⟩

/-- A mapped accumulator and a shape of rank 1 read from page 5; an image of 8 by 8 bytes. -/
theorem witness_DrainsAndMarkedOutput : let s := withX { banded 0 with mem := [(0x50000, 1)] } [(6, 0x50000), (7, 0x60000)]
    (∃ v t, loadAt (.plain 0x50000) 0 64 false s = .ok v t) ∧ shapeRank (BitVec.ofNat 512 1) = 1 ∧ bitsAt (1 : Nat) 3 61 = 0 ∧
    0 + 1 ≤ ({ win := 256 } : Tile).slots ∧
    (let p : APReg := BitVec.ofNat 512 (2 + 2 ^ 32 * 8 + 2 ^ 64 * 8 + 2 ^ 224 + 2 ^ 272 * 8)
     APReg.wellFormed p = true ∧ APReg.indexed p = false ∧ APReg.dims p = 2 ∧ APReg.esz p = 0 ∧ APReg.stride p 0 = 1 ∧
     APReg.count p 0 = 8 ∧ APReg.count p 1 = 8 ∧ ((8 : Nat) : Int) ≤ APReg.stride p 1 ∧
     ∃ l, task.checkAffine task.hart.req { pattern := some p, size := 1, base := 0x50000, view := none } 0 64 false false = .ok l) ∧
    (task.marks.get {} 1).counter ≤ 0xFFFFFFFF :=
  ⟨result_of (by decide +kernel), by decide +kernel, by decide, by decide +kernel,
    ⟨by decide +kernel, by decide +kernel, by decide +kernel, by decide +kernel, by decide +kernel, by decide +kernel, by decide +kernel,
      by decide +kernel, side_of (by decide +kernel)⟩, by decide +kernel⟩

/-- A grid of one dense level and one dimension on a page of class 10, with its descriptor on page 5. -/
def gridded : State :=
  (withX (withV { task with tlb := [copyOf 4, copyOf 5, { copyOf 6 with entry := (copyOf 6).entry ||| 0x2000000000 }] } 1 0x0A [])
    [(5, 0x50000), (9, 0x50080)]).setMemBytes 0x50000
    (toBytes 0x50 (0x80101 + 2 ^ 64 * 0x60000 + 2 ^ 128 * 0x60400 + 2 ^ 512 * (1 + 2 ^ 64)))

theorem witness_HashedGrids : let c := gridded.cfg
    (∃ g s1, gridHeader 5 true (fun g => decide (0 + 1 ≤ g.levels)) (fun _ => [])
      (fun g => groupsFrom 1 c.g g.dims ++ groupsFrom 2 c.g (1 * g.features)) gridded = .ok g s1) ∧
    (∃ l s2, gridLevels (gridOf 0x50000 (gridded.memNat 0x50000 64)) 0 1 gridded = .ok l s2) ∧
    (∃ t, gridded.locateGrid gridded.hart.req 0 0x60004 = .ok t) ∧
    (∃ t, gridded.locateGrid (gridded.hart.req (write := true) (atomic := true)) 0 0x60404 = .ok t) ∧
    gridded.hart.streams? (Opd.of 1 1) = false ∧ gridded.hart.det = false ∧
    CleanGroups gridded.hart.req 4 false gridded [[{ idx := 0, va := 0x60004, loc := .at_ (pageAt 6 4) }]] :=
  ⟨result_of (by decide +kernel), result_of (by decide +kernel), Exists.imp (fun _ => ok_of) (some_of (by decide +kernel)),
    Exists.imp (fun _ => ok_of) (some_of (by decide +kernel)), by decide +kernel, by decide +kernel, cleanAll_of (by decide +kernel)⟩

/-- A set of two sub-bins of 512 entries whose tile 0 is the task, at page 5. -/
def bins : BinSet := { asid := 1, die := 0, address := 0x50000, pa := 0x50000, tbase := 0x60000, tlen := 16, cap := 512, rsz := 0, int32 := false
                       node := 0, graph := some 0, nsub := 2, pool := 0x61000 }

/-- The task as tile 0 of node 0 of graph 0. -/
def placed : State := { task with hart := { task.hart with task := { task.hart.task with ref := some { graph := 0, node := 0, tile := 0 } } } }

theorem witness_BinSets : let s := { withV placed 1 0x0A [] with sets := [bins] }
    let v := 0x60000 + 2 ^ 80 * 512 + 2 ^ 96 * 16 + 2 ^ 128 * 2 + 2 ^ 192 * 0x61000
    RingPage s s.hart.req (0x50000 + word 0) 64 (pageAt 5 0) ∧ s.set? 0x50000 = some bins ∧ bins.hasTile s.hart = true ∧
    descriptorOk v (setOf 1 0 0x50000 0x50000 none v) = true ∧ task.set? 0x50000 = none ∧
    (bins.bin 0).space = false ∧ 1 ≤ bins.free ∧ ¬ ((15 : Nat) ≥ bins.tlen) ∧ bins.tlen ≤ 16 ∧
    ({ bins with nsub := 2, bins := [{ tile := 1, space := true }, { tile := 2, space := true }] }.free = 0) ∧
    pagesOf 0x60000 (4 * 16) = [0x60000] ∧ task.pageForbidden (task.hart.req (write := true)) true 0x60000 = false :=
  ⟨ring_page _ _ _ _ (by decide +kernel) (by decide +kernel), by decide +kernel, by decide +kernel, by decide +kernel, by decide +kernel,
    by decide +kernel, by decide +kernel, by decide, by decide, by decide +kernel, by decide +kernel, by decide +kernel⟩

/-- With pages 5 and 6 in the die's second-level TLB, which its dispatcher and its Sieve use. -/
def homed (s : State) : State := { s with tlb := s.tlb ++ [{ copyOf 5 with core := none }, { copyOf 6 with core := none }] }

def sieved : State := homed (withV placed 1 0x0A [])

/-- A sub-bin at the horizon that is full: it is applied, and one more entry fits; or its page is missing, or its pool lies nowhere; a
tile above the horizon waits. -/
theorem witness_BinSets_overflow : let b : BinSet := { bins with cap := 1, bins := [{ tile := 0, space := true, entries := [{ count := 0, elem := 0, index := 1, value := 1 }] }] }
    let r := sieved.applyBin b 0
    let missing := { sieved with tlb := [] }.applyBin b 0
    let failed := sieved.applyBin { b with pool := 0x00FFFF0100000000 } 0
    b.horizon = 0 ∧ b.cap < (b.bin 0).entries.length + 1 ∧ b.blocked = none ∧ (b.bin 0).space = true ∧ b.failure = none ∧
    r.2.failure = none ∧ (r.2.bin 0).entries = [] ∧ r.1.memNat 0x60004 4 = 1 ∧
    missing.2.failure = none ∧ (missing.2.bin 0).entries ≠ [] ∧ failed.2.failure.isSome = true ∧
    (1 : Nat) ≠ b.horizon := by decide +kernel

/-- A view of 65,537 bytes, over granules 2 and 3 of an arena of four. -/
def view : Handle := mkHandle 0 0x10001 2 true

def covering : State := { task with
  hart := (task.hart.setH 1 view), arenas := [{ asid := 1, base := 0x100000, granules := 4, counts := [(2, 0x8001), (3, 0x8001)] }] }

theorem witness_RegionInstructions : let s := covering
    Handle.live view = true ∧ Handle.live (0 : Handle) = false ∧ s.saturated 1 0 (Handle.granules view) = none ∧
    ({ s with arenas := [{ asid := 1, base := 0x100000, granules := 4, counts := [(2, 0xFFFF), (3, 0x8001)] }] }.saturated 1 0
      (Handle.granules view)) = some 2 ∧
    s.freeRun 1 2 = some 0 ∧ s.freeRun 1 3 = none ∧ Handle.lo view + 0x10001 ≤ Handle.hi view ∧ Handle.hi view < Handle.lo view + 0x10002 ∧
    ((s.exportSlots 1).getD 0 freshSlot).view = none ∧ ((s.exportSlots 1).getD 0 freshSlot).retired = false ∧
    (let e := { s with exports := [(1, [{ generation := 1, view := some view }])] }.exportSlots 1
     (e.getD 0 freshSlot).view = some view ∧ (1 : Nat) * 4096 + 0 = 4096) := by decide +kernel

theorem witness_StreamControl : APReg.wellFormed strm.pattern = true ∧ APReg.indexed strm.pattern = false ∧ (0 : Reg) = 0 ∧
    ¬ APReg.wellFormed 0 = true ∧ 48 ≤ (48 : Reg).toNat ∧ covering.saturated 1 0 (Handle.granules view) = none := by decide +kernel

/-- A graph of one node of two tiles that is released and runs its tile 0. -/
def node : Node := { record := { entry := 0x40000, ctrl := 2, aff := 0xF0000000001 }, released := true, next := 1 }

def launched : State := { placed with
  graphs := [{ id := 0, asid := 1, header := 0x80000, errp := 0x80040, gdonep := 0x80080, nodes := [node] }], nextGraph := 1 }

/-- A task with a command, one with a late failure, and one that may leave. -/
theorem witness_EndOfTask : busy.commandPending busy.hart.place = true ∧ launched.commandPending launched.hart.place = false ∧
    launched.hart.lates = [] ∧ launched.node? 0 0 = some node ∧
    { launched.hart with lates := [{ cause := .pageFault, address := 0, seq := 0, slot := none }] }.lates =
      [{ cause := .pageFault, address := 0, seq := 0, slot := none }] := by decide +kernel

theorem witness_TaskInstructions : let s := { mapped with hart := { placed.hart with csr := { placed.hart.csr with preempt := 1 }
                                                                                     task := { placed.hart.task with savep := 0x50000 } } }
    (0x0100000000000000 : Word).toNat = 2 ^ 56 ∧ (0x50040 : Word).toNat % 64 = 0 ∧ (s.die 0).launch.length = 0 ∧ (63 : Nat) < 64 ∧
    s.hart.csr.preempt.getLsbD 0 = true ∧ s.hart.holdsBack = false ∧ placed.hart.csr.preempt.getLsbD 0 = false ∧
    (match s.checkImage (s.hart.req (write := true)) 0x50000 (s.hart.compactImage 1 0 s.cycle) with
      | .ok l => l.all fun x => match x.2 with | .at_ _ => true | .absent _ => false
      | .error _ => false) = true ∧ s.cycle < 1 ∧ (0 : Word) ≤ s.cycle ∧
    (∃ c ∈ busy.cmds, c.place = busy.hart.place ∧ c.taken = false) ∧
    task.precheck (task.hart.req (write := true) (atomic := true)) (.plain 0x50000) 8 [{ idx := 0, off := 0 }] =
      .ok [{ idx := 0, va := 0x50000, loc := .at_ (pageAt 5 0) }] :=
  ⟨by decide, by decide, by decide +kernel, by decide, by decide +kernel, by decide +kernel, by decide +kernel, by decide +kernel,
    by decide +kernel, by decide +kernel, ⟨_, List.mem_singleton.mpr rfl, by decide +kernel, by decide +kernel⟩, ok_of (by decide +kernel)⟩

/-- A graph with a reserved field that is not zero, whose error record can be written at once, or waits for its page. -/
theorem witness_TaskInstructions_launch : let bad (errp : Nat) : State := (homed task).setMemBytes 0x50000 (toBytes 64 (2 ^ 96 + 2 ^ 128 * errp))
    let end_ (s : State) : State := { s with hart := { s.hart with launched := some (.failed 0 3 0x50000) } }
    ((bad 0x60000).validateGraph 0 1 0x50000).2.map (·.code) = some 3 ∧ ((bad 0x70000).validateGraph 0 1 0x50000).2.map (·.code) = some 3 ∧
    (end_ ((bad 0x60000).validateGraph 0 1 0x50000).1).recordWaits 0 = false ∧
    (end_ ((bad 0x70000).validateGraph 0 1 0x50000).1).recordWaits 0 = true ∧
    (end_ task).hart.launched = some (.failed 0 3 0x50000) ∧ task.hart.launched = none ∧ (task.die 0).launch.length < 64 := by decide +kernel

/-- A synchronous LAUNCH waits with its ticket, and the validation of its graph lets it go on. -/
theorem test_launch_sync : (match execLaunch { d := 3, a := 5, fl := 1 } (withX (homed task) [(5, 0x50000)]) with
    | .next u => u.hart.launched == some (.queued 0) && (u.die 0).launch == [(1, 0x50000)] &&
      (match execGraphValidation { u with arg := .submission (.device 0) } with
        | .next v => v.hart.launched == some .passed && (v.die 0).launch == []
        | _ => false)
    | _ => false) = true := by decide +kernel

/-- A barrier for two at page 5 that the task has joined. -/
def bar : Barrier := { asid := 1, address := 0x50000, pa := 0x50000, joins := 1, count := 2, owner := 0, graph := some 0
                       members := [{ place := {}, task := some { graph := 0, node := 0, tile := 0 }, address := 0x50000, phase := 0 }] }

theorem witness_Barriers : let s := { launched with barriers := [bar] }
    RingPage s (s.hart.req (write := true)) (0x50000 + word 0) 32 (pageAt 5 0) ∧ launched.barrier? 0x50000 = none ∧
    s.barrier? 0x50000 = some bar ∧ (∃ m ∈ bar.members, m.is s.hart = true) ∧ s.orphaned bar = false ∧ ¬ (bar.count ≤ bar.joins) ∧
    launched.hart.bars.length < 4 ∧
    ({ bar with joins := 2 }.count ≤ 2) :=
  ⟨ring_page _ _ _ _ (by decide +kernel) (by decide +kernel), by decide +kernel, by decide +kernel, ⟨_, List.mem_singleton.mpr rfl, by decide +kernel⟩,
    by decide +kernel, by decide, by decide +kernel, by decide⟩

theorem witness_ControlRegisters : task.csr 0x00E = none ∧ (task.csr 0x008).isSome = true ∧ (task.csr 0xFFF) = none ∧
    { byteCopy with kind := .copyCv 1 0 0 false { pattern := none, size := 1, base := 0 } { pattern := none, size := 1, base := 0 } 0 0 }.setsFlags = true ∧
    (0x018 : Word).getLsbD 3 = true ∧ (0x018 : Word).getLsbD 4 = true ∧ (0x008 : Word).getLsbD 3 ≠ (0x008 : Word).getLsbD 4 ∧
    (1 : Word).getLsbD 0 = true ∧ task.hart.csr.preempt.getLsbD 0 = false ∧
    { task.hart.task with savep := 0x50000 }.savep ≠ 0 := by decide +kernel

theorem witness_ExceptionsAndPrivilege : let f := { coded with hart := { coded.hart with firmware := true, csr := { coded.hart.csr with epc := 0x40000 } } }
    task.hart.firmware = false ∧ isPc f.hart.csr.epc = true ∧ { f with hart := f.hart.returned }.refusesTarget 0x40000 = false ∧
    f.hart.csr.ecause.getLsbD 11 = false ∧ isPc 0x40007 = false ∧ f.hart.fwEvent = false := by decide +kernel

theorem witness_CommandProgress : let s := busy
    let src : Side := { pattern := none, size := 1, base := 0x50000 }
    let dst : Side := { pattern := none, size := 1, base := 0x60000 }
    s.cmds[0]? = some byteCopy ∧ src.indexed = false ∧ byteCopy.blocked = false ∧ byteCopy.isOver = false ∧
    s.sideTarget byteCopy src 0 0 false false = .ok (0x50000, .at_ (pageAt 5 0)) ∧ s.sideTarget byteCopy dst 0 0 true false = .ok (0x60000, .at_ (pageAt 6 0)) ∧
    (pageAt 5 0).protected_ = false ∧ byteCopy.done + 1 = 1 ∧
    s.sideTarget byteCopy { src with base := 0x70000 } 0 0 false false = .ok (0x70000, .absent false) ∧
    (∃ e, s.sideTarget byteCopy { src with base := 0x00FFFF0100000000 } 0 0 false false = .error e) ∧ (s.die 0).queueFull = false ∧
    (s.harts.find? fun h => h.place == byteCopy.place && h.run == .running) = some s.hart :=
  ⟨by decide +kernel, by decide, by decide, by decide, ok_of (by decide +kernel), ok_of (by decide +kernel), by decide +kernel, by decide,
    ok_of (by decide +kernel), error_of (by decide +kernel), by decide +kernel, by decide +kernel⟩

theorem stop_of {α : Type} {x : Except EntryStop α} {f : Req → Word → Bool → Bool}
    (h : (match x with | .error (.absent q va bad) => f q va bad | _ => false) = true) : ∃ q va bad, x = .error (.absent q va bad) := by
  split at h
  · exact ⟨_, _, _, rfl⟩
  · cases h

/-- A pending store, a granule that no view counts, a stream with room, a sealed sub-bin of one entry, a migrating page, an idle engine. -/
theorem witness_EngineSteps :
    ({ task with pend := [pending false] }.pend[0]?).isSome = true ∧ (pending false).shown 1 = false ∧ (pending false).shown 0 = true ∧
    task.granulePending 1 0 = false ∧ (pending true).held = true ∧
    (let a : Arena := { asid := 1, base := 0x100000, granules := 4, counts := [(2, 0x8000)] }
     a.allocated 2 = true ∧ a.count 2 = 0 ∧ a.allocated 3 = false) ∧
    (strm.pos + strm.buf.length = 8 ∧ { strm with buf := [] }.pos < APReg.total strm.pattern ∧ (0 + 1) * APReg.size strm.pattern ≤ 1024) ∧
    (∃ x t, streamElem task.hart.req { strm with buf := [] } 4 task = .ok x t) ∧
    (let e : BinEntry := { count := 0, elem := 0, index := 15, value := 1 }
     let b := { bins with bins := [{ tile := 0, sealed := true, entries := [e] }] }
     (b.bin b.horizon).sealed = true ∧ (∃ t, sieved.entryTarget b 0 e = .ok t) ∧ ∃ q va bad, { task with tlb := [] }.entryTarget b 0 e = .error (.absent q va bad)) ∧
    task.queueHeads 0 0 = [] :=
  ⟨by decide +kernel, by decide +kernel, by decide +kernel, by decide +kernel, by decide +kernel, by decide +kernel, by decide +kernel,
    result_of (by decide +kernel), ⟨by decide +kernel, Exists.imp (fun _ => ok_of) (some_of (by decide +kernel)),
      stop_of (f := fun _ va _ => va == 0x61000) (by decide +kernel)⟩, by decide +kernel⟩

/-- A pass that stands before a missing page, which is still missing or not. -/
theorem witness_EngineSteps_sieve : let b : BinSet := { bins with
      bins := [{ tile := 0, sealed := true, entries := [{ count := 0, elem := 0, index := 15, value := 1 }] }], blocked := some 0x6103C }
    let s : State := { task with tlb := [] }
    let h := { b with pool := 0x50000, tbase := 0x70000, blocked := some 0x7003C }
    (sieved.missingEntry h).map (·.2) = some 0x7003C ∧ h.blocked = some 0x7003C ∧
    (∀ bad, sieved.translate b.req 0x6103C ≠ .absent bad) ∧ ∃ bad, s.translate b.req 0x6103C = .absent bad :=
  ⟨by decide +kernel, rfl, by decide +kernel, ⟨false, by decide +kernel⟩⟩

/-- A migrating page whose first line is to be copied. -/
theorem witness_EngineSteps_migration : let s := (task.setMemBytes 0 (toBytes 32
      ((pageEntry 1 0 4 true true ||| 0x10000000#128).toNat + 2 ^ 128 * (2 + 2 ^ 92 * 9))))
    Entry.valid (s.entryAt 0 0) = true ∧ Entry.migrating (s.entryAt 0 0) = true ∧ Entry.bad (s.entryAt 0 0) 0 (s.entryAt 0 1) = false ∧
    (s.entryAt 0 1).toNat / 2 ^ 71 % 2 ^ 21 < Entry.lines (s.entryAt 0 0) := by decide +kernel

theorem witness_GraphSteps : let s := launched
    (s.graph? 0).isSome = true ∧ s.node? 0 0 = some node ∧ s.nodeBusy 0 0 = false ∧ node.picks 1 = [.fresh [1]] ∧
    s.fitsAt node.record [] { slot := 1 } = true ∧ s.mayPlace { graph := 0, asid := 1, index := 0, node := node } 0 [{ slot := 1 }] = true ∧
    s.preferred node.record (fun _ => true) [] [{ slot := 1 }] = true ∧ node.ended < node.record.tiles ∧ node.left = true ∧ node.record.dieAllowed 3 = true ∧
    ((s.graph? 0).all fun g => g.mayRelease { node with released := false }) = true ∧
    { s with assigned := [(1, 1)] }.assigned.get 0 1 = 0 + 1 ∧ (255 : Nat) < 256 ∧ s.nextGraph = 1 := by decide +kernel

/-- A word of node 0 that can be written, and one whose page is missing, with room in the fault queue. -/
theorem witness_GraphSteps_words : let w (a : Word) : DispWrite :=
      { die := 0, asid := 1, graph := 0, node := 0, address := a, op := .done, completion := true }
    ((homed launched).tryDispatch (w 0x50000)).2 = .performed ∧ (launched.tryDispatch (w 0x70000)).2 = .waits false ∧ (launched.die 0).queueFull = false ∧
    (w 0x50000).behind (w 0x50008) = false ∧ (w 0x50000).told = false ∧ launched.dispWrites = [] := by decide +kernel

/-- A header of zeros on a page that every die has a copy of is a graph without nodes, for the dispatcher of every die. -/
theorem witness_GraphSteps_validation :
    let s := { task with tlb := (List.range 4).map fun die => { die, core := none, entry := (copyOf 5).entry } }
    (∀ die < 4, s.headerFault die 1 0x50000 = none) ∧ (∀ die < 4, s.agentRead die 1 0x50000 64 = some 0) ∧
    ∀ die, s.nodeFaults die 1 0 0 0 = .ok [] := ⟨by decide +kernel, by decide +kernel, fun _ => rfl⟩

/-- A trap of a task that has a handler at its own code and a stack on page 5. -/
def handled (code : Nat) : State := withX { coded with
  hart := { coded.hart with
    firmware := true, asid := 0
    csr := { coded.hart.csr with tvec := 0x40000, epc := 0x40001, ecause := BitVec.ofNat 64 code, eaddr := 0x40000 } }
  tlb := [{ die := 0, core := some 0, entry := pageEntry 0 5 5 true true ||| 0xC0000000 }] } [(2, 0x50040), (4, 0x50000)]

theorem witness_FirmwareSteps : let s := handled 0x02
    (s.hart.csr.ecause.toNat / 2 ^ 9 % 4 = 0 ∧ s.hart.csr.ecause.toNat % 256 = 0x02 ∧ s.hart.csr.ecause.getLsbD 8 = false) ∧
    s.hart.csr.tvec ≠ 0 ∧ isPc s.hart.csr.tvec = true ∧ s.asTask.refusesTarget s.hart.csr.tvec = false ∧
    (match s.putFrame s.hart (s.hart.getX 2 - 64) (dwords [0, 0, 0, 0, 0, 0, 0, 0]) with | .ok _ => true | _ => false) = true ∧
    (match s.getFrame s.hart (s.hart.getX 4) with | .ok (_, v) => v == 0 | _ => false) = true ∧
    (handled 0x07).nowResident = true ∧ isPc (0 : Word) = true ∧ (handled 0x10).promisedFull = false := by decide +kernel

/-- A line parity error met in sequence, the first and the second time. -/
theorem witness_FirmwareSteps_refetch : let c := (handled 0x804).hart.csr
    (handled 0x804).hart.firmware = true ∧ (handled 0x804).hart.run = .running ∧ c.ecause.toNat / 2 ^ 9 % 4 = 0 ∧
    c.ecause.toNat % 256 = 0x04 ∧ (handled 0x804).hart.refetched.contains c.epc = false ∧ isPc c.epc = true ∧ c.ecause.getLsbD 11 = true ∧
    [c.epc].contains c.epc = true := by decide +kernel

/-- A task that a request may pre-empt, one that must stop, and a node whose tile may be rerun or not. -/
theorem witness_FirmwareSteps_requests :
    (let s := { coded with hart := { coded.hart with
       csr := { coded.hart.csr with preempt := 1 }, deadline := some 0, task := { coded.hart.task with savep := 0x50000 } } }
     s.mayStop = true ∧ (0x50000 : Word).toNat % 128 = 0 ∧ s.hart.task.savep ≠ 0) ∧
    coded.hart.csr.preempt.getLsbD 0 = false ∧ coded.hart.task.savep = 0 ∧ coded.mayStop = false ∧
    launched.hart.task.gang = none ∧ launched.hart.acted = false ∧ node.record.restartable = false ∧
    { node.record with ctrl := 0x800000002 }.restartable = true ∧ node.reruns.count 0 < 2 ∧
    ((launched.stopMember { graph := 0, node := 0, tile := 0 }).tileHart { graph := 0, node := 0, tile := 0 }).elim false (!·.acted) = true ∧
    ((launched.stopMember { graph := 0, node := 0, tile := 0 }).tileHart { graph := 0, node := 0, tile := 0 }).isSome = true := by decide +kernel

/-- A VLD of four words at its forced stop, the first two of which are performed first. -/
theorem witness_FirmwareSteps_stop : let w := ((encode (.vld { d := 3, a := 5 })).getD 0).toNat
    let s := withV (withX (State.reset.withFetchWord 96 w) [(5, 0x50000)]) 4 0x0A []
    let s := { s with
      tlb := [{ die := 0, core := some 0, entry := pageEntry 0 5 5 true true ||| 0xC0000000 }]
      hart := { s.hart with csr := { s.hart.csr with preempt := 1 }, deadline := some 0 } }
    s.mayStop = true ∧ ((s.performWithin 3).map fun t => (t.hart.csr.elx, t.hart.pc == s.hart.pc)) = some (2, true) ∧
    (s.performWithin 15).isSome = false := by decide +kernel

theorem witness_DeviceSteps : let s := (State.reset.mapEntry (pageEntry 1 8 8 true false)).getD State.reset
    let h := { s with assigned := [(1, 1)], bar2 := [(0, BitVec.ofNat 64 (2 ^ 52 + 8))] }
    (h.bar2Page 0 0xFFFF false).isSome = true ∧ (h.bar2Page 0 0xFFFF true).isSome = true ∧
    ((h.bar2Page 0 0xFFFF true).all fun x => !x.entry.migrating) = true ∧ 0xFFFF % 128 + 1 ≤ 128 ∧ s.bar2Page 0 0 false = none ∧
    0xFFFF % 2 ^ 16 + 1 ≤ 2 ^ 16 ∧ (s.port 11).down = false ∧ (s.port 0).failed < 17 ∧ (List.replicate 256 (0 : Byte)).length = 256 ∧
    { s with grants := [(4, true)] }.peerMayAll 0x40000 8 = true ∧ s.peerMayAll 0x40000 8 = false ∧ s.cycle.toNat + 12960 < 2 ^ 64 ∧
    s.loadObject 1 [] [] = none ∧ s.arenaOk { asid := 1, base := 0x10000, granules := 0 } = true ∧
    s.arenaOk { asid := 1, base := 1, granules := 0 } = false ∧ s.poisonIn outside 0x40000 0x40000 8 = false ∧ s.loses 0x40000 = false ∧
    Amo.ofCode 2 = some .add ∧ { s with dumps := [0x40000] }.dumps[0]? = some 0x40000 ∧ s.dumps[3]? = none ∧ barSize 16 0 < 1 ∧
    (s.port 0).expected = 0 ∧ s.port 0 = {} := by decide +kernel

/-- A line whose checks pass; lines that fail each of R32's checks in turn; and a slot that does not decode. -/
theorem witness_StepRunsDecodedInstruction : let lw := coded.memNat 0x4003C 4
    let ones (v n : Nat) : Nat := (List.range n).countP fun j => v.testBit j
    coded.fatal = none ∧ coded.agenda = [] ∧ coded.hart.run = .running ∧
    (match coded.fetch coded.hart.pc with
      | .line l => l.data.poison == [] && l.data.bits / 2 ^ 480 % 2 ^ 32 == lw
      | _ => false) = true ∧
    ones lw 15 % 2 = 0 ∧ lw < 2 ^ 15 ∧ (ones (coded.memNat 0x40000 12) 96 + if lw.testBit 9 then 1 else 0) % 2 = 0 ∧
    ones (lw + 1 - 2) 15 % 2 = 1 ∧ 2 ^ 15 ≤ lw + 2 ^ 15 ∧ (ones 0 96 + if lw.testBit 9 then 1 else 0) % 2 = 1 ∧
    (match { coded with poison := [(0x8001, true)] }.fetch coded.hart.pc with
      | .line l => l.data.poison == [1]
      | _ => false) = true ∧
    Instr.boot.code = none ∧ State.reset.hart.run = .idle ∧ coded.atStop = false ∧ coded.hart.faulting = none ∧
    { coded with hart := { coded.hart with csr := { coded.hart.csr with preempt := 1 }, deadline := some 0 } }.atStop = true := by decide +kernel

/-- Memory after reset is canonical, and so is memory with a byte; a list out of order is not. -/
theorem witness_MemoryCanonicalKeptByStep : Memory.wf State.reset.mem ∧ Memory.wf coded.mem ∧ ¬ Memory.wf [(1, 1), (0, 1)] ∧
    ¬ Memory.wf [(0, 0)] ∧ (match step coded with | .next _ => true | _ => false) = true := by decide +kernel

/-- Values of E4M3 that are representable, lie between two neighbours or lie beyond the largest, in units of 2^-10; its NaN. -/
theorem witness_ValuesAndRounding : let f := e4m3
    let mag (c : Nat) : Nat := ((f.value c).units (-10)).toNat
    f ∈ [fp32, fp16, bf16, e4m3, e5m2] ∧ (-10 : Int) ≤ f.emin - 1 ∧ mag 1 = 2 ∧ mag 1 < 3 ∧ 3 < mag 2 ∧ 2 < f.maxCode ∧
    mag f.maxCode < 1000 * 2 ^ 10 ∧ 0x7E % 2 ^ (f.w + f.t) ≤ f.maxCode ∧ f.maxCode < 0x7F % 2 ^ (f.w + f.t) ∧ 0x7F < 2 ^ (f.w + f.t + 1) ∧
    (-2 : Int) ≤ 1 ∧ (-3 : Int) + -2 ≤ 0 := by decide +kernel

theorem part_of {s : State} {q : Req} {b : Base} {n : Nat} {l : List Elem} {f : List Placed → List Placed} {g : List Placed → Bool}
    (h : (match s.precheck q b n l with
      | .ok p => presentAll s q n (f p) && clean q n s (f p) && g p
      | .error _ => false) = true) :
    ∃ p, s.precheck q b n l = .ok p ∧ Present s q n (f p) ∧ CleanReads q n false s (f p) ∧ g p = true := by
  cases hp : s.precheck q b n l with
  | error e => simp [hp] at h
  | ok p =>
    simp only [hp, Bool.and_eq_true] at h
    exact ⟨p, rfl, present_of h.1.1, clean_of h.1.2, h.2⟩

/-- Two words at the end of page 6 and two on page 7, which no entry maps: the first two are present, and the queue has room. -/
theorem witness_VectorLoadPartWay : let here (p : Placed) : Bool := match p.loc with | .at_ _ => true | .absent _ => false
    (∃ p, four.precheck four.hart.req (.plain 0x6FFF8) 4 ((List.range 4).map fun e => { idx := e, off := ((e * 4 : Nat) : Int) }) = .ok p ∧
      Present four four.hart.req 4 (p.filter here) ∧ CleanReads four.hart.req 4 false four (p.filter here) ∧
      ((p.filter (!here ·)).length == 2 && p.takeWhile here == p.filter here) = true) ∧
    four.hart.firmware = false ∧ four.hart.det = false ∧ { four.hart with det := true, leader := true }.det = true ∧ four.hart.getM 7 = 0 ∧
    four.cfg.vl ≤ 8192 ∧ OperandsOk four [Opd.of 5 1] ∧ (Opd.of 3 1).disjoint (Opd.of 5 1) = true ∧ four.cfg.g * 32 / four.cfg.w ≤ 8 ∧
    (four.die 0).faults.length + 1 ≤ faultCapacity ∧ (four.die 0).writer = none :=
  ⟨part_of (f := fun p => p.filter _) (g := fun p => (p.filter _).length == 2 && p.takeWhile _ == p.filter _) (by decide +kernel),
    by decide +kernel, by decide +kernel, by decide +kernel, by decide +kernel, by decide +kernel, by unfold OperandsOk; decide +kernel,
    by decide +kernel, by decide +kernel, by decide +kernel, by decide +kernel⟩

/-- A full slot that RREL empties, and a RAWAIT that waits. -/
theorem witness_RingInstructions_release : let s := ringed (2 ^ 63)
    let waiting : State := { s with hart := { s.hart with waiting := some (.rawait { a := 5 }) } }
    RingReads (s.hart.req (write := true)) 8 s [(0x50000 + word 64, pageAt 5 64, pageAt 5 64)] ∧
    waiting.waitsAt = some (.rawait { a := 5 }) :=
  ⟨⟨ring_page _ _ _ _ (by decide +kernel) (by decide +kernel), ring_page _ _ _ _ (by decide +kernel) (by decide +kernel), trivial⟩,
    by decide +kernel⟩

/-- Four words into the weight store of die 0, which has no owner or another's; an index list there; a pattern of 8-byte elements. -/
def record8 : APReg := BitVec.ofNat 512 (1 + 16 * 3 + 2 ^ 32 * 4 + 2 ^ 224 * 8)

def filling : State := withX { task with hart := task.hart.setAP 0 record8 } [(8, 0x50000), (9, 0x00FFFF0000000000)]

theorem witness_CommandDispatch_store : let s := filling
    patternFault copyOp (s.srcSide copyOp) (s.dstSide copyOp 8) ((s.srcSide copyOp).size == 8) 8 = none ∧
    (∃ l, s.checkAffine s.hart.req (s.srcSide copyOp) 8 4 false false = .ok l) ∧
    (∃ l, s.checkAffine s.hart.req (s.dstSide copyOp 8) 9 4 true true = .ok l) ∧
    regionOf 0 0x00FFFF0000000000 = .weights 0 0 ∧ (s.die 0).storeOwner = none ∧
    { s.die 0 with storeOwner := some 2 }.storeOwner = some 2 ∧ (2 : Asid) ≠ s.hart.req.asid :=
  ⟨by decide +kernel, side_of (by decide +kernel), side_of (by decide +kernel), by decide +kernel, by decide +kernel, rfl, by decide +kernel⟩

/-- A full ring, whose slots are too short for 200 bytes. -/
def full : State := (ringed (2 ^ 63)).setMemBytes 0x50018 (toBytes 4 2)

theorem witness_CommandChecks_ring : let s := full
    ∃ r t u, HeaderAt s (s.hart.req (write := true) (atomic := true)) (0x50000 + word 0) r t u ∧ (r.cptr - r.rptr).toNat = r.slots ∧
      r.ssize < 200 ∧ 16 ≤ r.ssize :=
  let s := full
  let q := s.hart.req (write := true) (atomic := true)
  let u := (((s.touch q (pageAt 5 0)).touch { q with write := false, atomic := false } (pageAt 5 0)).atSlice q (pageAt 5 0) 64)
  ⟨ringOf (u.memNat 0x50000 64), pageAt 5 0, u,
    ⟨pageAt 5 0, ring_page _ _ _ _ (by decide +kernel) (by decide +kernel), ring_page _ _ _ _ (by decide +kernel) (by decide +kernel), rfl,
      rfl, by decide +kernel⟩, by decide +kernel, by decide +kernel, by decide +kernel⟩

/-- An image of 8 by 8 bytes for MKOUT and its places; records that COPYSEG can and cannot take; a drain whose shape is in order. -/
def image8 : APReg := BitVec.ofNat 512 (2 + 2 ^ 32 * 8 + 2 ^ 64 * 8 + 2 ^ 224 + 2 ^ 272 * 8)

theorem witness_CommandChecks_others :
    MarkImage image8 ∧ ¬ MarkImage 0 ∧
    0xFFFFFFFF < ({ counter := 2 ^ 32 } : Mark).counter ∧
    APReg.wellFormed record4 = true ∧ APReg.indexed record4 = false ∧ isDefined four.cfg.fmt = true ∧ four.cfg.g = 1 ∧
    (∃ t, four.precheck four.hart.req (.plain 0x00FFFF0100000000) 4 [{ idx := 0, off := 0 }] = .error t) ∧
    (task.hart.getAC 1 = .unmapped) ∧ ({ win := 256 } : Tile).slots < 1000 + 1 ∧ shapeRank 0 = 0 ∧ (isInt 0x10 || isFp 0x10) = false :=
  ⟨by unfold MarkImage; decide +kernel, by unfold MarkImage; decide +kernel,
    by decide +kernel, by decide +kernel, by decide +kernel, by decide +kernel, by decide +kernel, error_of (by decide +kernel),
    by decide +kernel, by decide +kernel, by decide +kernel, by decide +kernel⟩

/-- Places for the marked image and its manifest in the scratchpad, and an address that names nothing. -/
theorem witness_CommandChecks_image :
    (∃ l, task.checkAffine task.hart.req { pattern := none, size := 1, base := 0x00FFFFFFFFF00000, view := none } 0 4224 true false = .ok l) ∧
    ∃ t, task.checkAffine task.hart.req { pattern := none, size := 1, base := 0x00FFFF0100000000, view := none } 0 4224 true false = .error t :=
  ⟨side_of (by decide +kernel), refused_of (by decide +kernel)⟩

/-- The copy of a byte performs its one element; it has no ring. -/
theorem witness_CommandProgress_copy : (∃ u fl n, Performs busy byteCopy u fl n ∧ byteCopy.done + 1 = byteCopy.elements) ∧
    FillsRing busy byteCopy busy none :=
  ⟨⟨_, _, _, .inl ⟨_, _, _, 0, 0, busy, 0x50000, pageAt 5 0, 0x60000, pageAt 6 0, rfl, ⟨busy, rfl, rfl⟩, ok_of (by decide +kernel),
    ok_of (by decide +kernel), by decide +kernel, rfl, rfl, rfl⟩, rfl⟩, rfl, rfl⟩

/-- A drain of one slot of 256 cells of INT8 to page 6. -/
def drain : DrainJob := { tile := { win := 256 }, name := 0, fmt := 5, s0 := 0, ns := 1, mode := 0, seed := 0, srbase := 0
                          sat := false, add := false, maxAt := none, base := 0x60000, shape := BitVec.ofNat 512 (1 + 2 ^ 64 * 256 + 2 ^ 128 * 4)
                          paired := false }


theorem witness_CommandProgress_drain : ∃ u fl n, Performs task { byteCopy with kind := .adrainm drain } u fl n :=
  ⟨_, _, _, .inr (.inl ⟨drain, rfl, by
    rw [if_pos (by decide +kernel)]
    exact ⟨0, 0, 0, 0x60000, pageAt 6 0, by decide +kernel, ok_of (by decide +kernel), rfl, by
      show (if drain.add then _ else _)
      rw [if_neg (by decide)]
      exact ⟨rfl, rfl⟩⟩⟩)⟩
theorem fills_of {v : State} {c : Cmd} {ring : Word} {seq : BitVec 32} {n : Nat} (hr : c.ring = some (ring, seq))
    (h : (match v.ringHead c ring with
      | .ok (some (r, t)) => (match (v.readRing c r t ring 0).ringPart c (ring + BitVec.ofNat 64 (0x40 + 8 * (seq.toNat % r.slots))) 8 with
        | .ok (some y) =>
          let moved := match c.kind with | .breplay _ | .bflush _ => 0 | _ => c.bytes
          let w := (v.readRing c r t ring 0).slicePut c y 8 (2 ^ 63 + c.failure.elim 0 (fun f => 2 ^ 62 + f.1.code * 2 ^ 56) + min moved 0xFFFFFF * 2 ^ 32 + seq.toNat)
          (match w.ringHead c ring with
          | .ok (some (r', _)) => decide (n = (r'.cptr - r'.wptr).toNat) && decide (n ≤ r'.slots) &&
              (List.range n).all fun k => w.slotFull c (ring + BitVec.ofNat 64 (0x40 + 8 * ((r'.wptr + BitVec.ofNat 32 k).toNat % r'.slots)))
          | _ => false)
        | _ => false)
      | _ => false) = true) : ∃ u slot, FillsRing v c u slot := by
  split at h
  · rename_i r t h1
    split at h
    · rename_i y h2
      simp only at h
      split at h
      · rename_i r' t' h3
        simp only [Bool.and_eq_true, decide_eq_true_eq, List.all_eq_true, List.mem_range] at h
        simp only [FillsRing, hr]
        exact ⟨_, _, r, t, y, r', t', n, h1, rfl, h2, h3, ⟨by omega, by omega, h.2, .inl h.1.1⟩, rfl⟩
      · cases h
    · cases h
  · cases h

/-- A command whose ring waits for its slot alone. -/
theorem witness_CommandProgress_ring : ∃ u slot, FillsRing full { byteCopy with ring := some (0x50000, 1), bytes := 1 } u slot :=
  fills_of (n := 1) rfl (by decide +kernel)

theorem marks_of {s : State} {c : Cmd} {src dst : Side} {w h delta : Nat} {identifier : Word} {counter : BitVec 32}
    (hk : c.kind = .mkout src dst w h delta identifier counter)
    (h1 : (match framePixels c src (w * h) s with
      | .ok _ s1 => (match writePlaces c dst.base (w * h) s1 with
        | .ok _ s2 => (match writePlaces c (dst.base + BitVec.ofNat 64 ((w * h + 127) / 128 * 128)) 4096 s2 with
          | .ok _ _ => true
          | _ => false)
        | _ => false)
      | _ => false) = true) : ∃ u, MarksFrame s c u 0 (w * h + 4096) := by
  split at h1
  · rename_i pixels s1 e1
    split at h1
    · rename_i l1 s2 e2
      split at h1
      · rename_i l2 s3 e3
        let key := kmac256 Config.markKey (toBytes 4 counter.toNat ++ toBytes 8 identifier.toNat) ((w * h / 64 + 7) / 8) markCustom
        let f (k : Nat) := markOf w delta (identifier.toNat + 2 ^ 64 * counter.toNat) key (k / w) (k % w) (pixels.getD k 0)
        refine ⟨_, src, dst, w, h, delta, identifier, counter, pixels, s1, l1, s2, l2, s3, hk, e1, e2, e3, rfl, rfl,
          (List.range pixels.length).map (fun k => BitVec.ofNat 8 (f k)), rfl, by simp, fun k hk => ?_⟩
        have small : f k < 256 := by
          simp only [f, markOf]
          split
          · split <;> omega
          · omega
        have at_ : ((List.range pixels.length).map fun k => BitVec.ofNat 8 (f k)).getD k 0 = BitVec.ofNat 8 (f k) := by
          simp [List.getD_eq_getElem?_getD, hk]
        rw [at_, BitVec.toNat_ofNat]
        exact Nat.mod_eq_of_lt small
      · cases h1
    · cases h1
  · cases h1

def frameSide : Side := { pattern := some image8, size := 1, base := 0x50000 }

def marking : Cmd := { byteCopy with kind := .mkout frameSide { pattern := none, size := 1, base := 0x60000 } 8 8 1 0 0 }

theorem witness_CommandProgress_mark : ∃ u, MarksFrame task marking u 0 (8 * 8 + 4096) := marks_of (src := frameSide) (dst := { pattern := none, size := 1, base := 0x60000 }) rfl (by decide +kernel)

/-- A core whose two harts stand at a diagonal instruction: the older one goes first. -/
def picking (since : Word) : State :=
  let s := State.reset.withFetchWord 96 ((encode (.dprod { b := 1, c := 2, fl := 1 })).getD 0).toNat
  { s with hart := { s.hart with arrived := since }, parked := { s.hart with place := { slot := 1 }, arrived := 3 } :: s.parked.drop 1 }

/-- A hart at a DPROD whose A window streams from the scratchpad, and a pending command of the hart that writes those bytes or not. -/
def popping (claims : List Claim) : State :=
  let s := ((banded 0).withFetchWord 96 ((encode (.dprod { b := 1, c := 2 })).getD 0).toNat)
  let st : Stream := { pattern := BitVec.ofNat 512 (1 + 2 ^ 32 * 256 + 2 ^ 224), base := 0x00FFFFFFFFF00000, list := 0, view := none, pos := 0, buf := [] }
  { s with hart := (s.hart.setBS 0 (bandAt 48 0 0)).setStream 48 (some st), cmds := [{ byteCopy with claims }] }

def heldPop : State := popping [{ lo := 0, hi := 1, write := true }]

theorem witness_EngineSteps_heldPop :
    (match heldPop.diagonalAt heldPop.hart with
      | some (.dprod _, some r) => (match popWindows r heldPop with | .error .wait _ => true | _ => false)
      | _ => false) = true ∧
    heldPop.queueHeads 0 0 = [] ∧ (popping []).queueHeads 0 0 ≠ [] := by decide +kernel

theorem witness_EngineSteps_pick : (picking 2).queueHeads 0 0 ≠ [] ∧
    (match fetchInstr ((picking 2).turnTo {}) with
      | .ok (.dprod _) _ => true
      | _ => false) = true ∧
    (picking 2).behindPick (.dprod { b := 1, c := 2, fl := 1 }) = false ∧ (picking 5).behindPick (.dprod { b := 1, c := 2, fl := 1 }) = true ∧
    ((task.die 0).budgetUnits.toNat : Int) - (task.die 0).charged < 8 := by decide +kernel

/-- The hart is a member of the barrier, which can never fill once the node's other tile has ended. -/
theorem witness_Barriers_orphaned : bar.members.find? (·.is launched.hart) = bar.members.head? ∧ bar.members ≠ [] ∧
    ({ launched with graphs := [{ id := 0, asid := 1, header := 0x80000, errp := 0x80040, gdonep := 0x80080, nodes := [{ node with ended := 1 }] }] } : State).orphaned
      bar = true ∧ { launched with hart := { launched.hart with waiting := some (.barw { a := 5 }) } }.waitsAt = some (.barw { a := 5 }) := by
  decide +kernel

/-- A set for the gradient words of the grid, of which the task is a tile, with room for all that it appends. -/
theorem witness_HashedGrids_bins : let b : BinSet := { bins with pa := 0x50100, address := 0x50100, tbase := 0x60400 }
    let s := { gridded with sets := [b], hart := { gridded.hart with task := placed.hart.task } }
    let g := gridOf 0x50000 (gridded.memNat 0x50000 64)
    RingPage s s.hart.req (0x50000 + word 0x100) 64 (pageAt 5 0x100) ∧ s.set? 0x50100 = some b ∧ b.hasTile s.hart = true ∧ b.int32 = false ∧
    b.tbase = g.gbase ∧ (0 + 2 ^ 1) * g.features ≤ b.tlen ∧ b.mayTake 0 = true ∧ 2 ≤ b.cap :=
  ⟨ring_page _ _ _ _ (by decide +kernel) (by decide +kernel), by decide +kernel, by decide +kernel, by decide +kernel, by decide +kernel,
    by decide +kernel, by decide +kernel, by decide⟩

/-- A set that BREPLAY has to wait for, and one on which it ends. -/
theorem witness_CommandProgress_sieve : let s := { launched with sets := [bins] }
    s.set? bins.pa = some bins ∧ ¬ (s.setTiles bins).2 ≤ (s.setTiles bins).1 ∧
    (let t := { launched with sets := [{ bins with horizon := 2 }], graphs := [{ id := 0, asid := 1, header := 0x80000, errp := 0x80040, gdonep := 0x80080, nodes := [{ node with ended := 2 }] }] }
     (t.setTiles { bins with horizon := 2 }).2 ≤ (t.setTiles { bins with horizon := 2 }).1 ∧
     (t.setTiles { bins with horizon := 2 }).2 ≤ 2) := by decide +kernel

/-- An object of one section of code of four bytes. -/
def objectFile : List Byte := toBytes 4 0x31434F41 ++ toBytes 2 1 ++ [1, 0] ++ toBytes 8 0 ++ toBytes 4 0x38 ++ toBytes 4 1 ++ toBytes 32 0 ++
  ([1, 6, 0, 0, 0, 0, 0, 0] ++ toBytes 8 4 ++ toBytes 8 0x58 ++ toBytes 8 0) ++ [1, 2, 3, 4]

/-- An object that is loaded, at a frame apart from the page table. -/
theorem witness_DeviceSteps_object : let s := task
    let o := parseObject objectFile
    let bases : List (Word × Nat) := [(0x90000, 9)]
    (s.loadObject 1 objectFile bases).isSome = true ∧ (mergeSymbols bases o o.symbols (s.symbolsOf 1)).isSome = true ∧
    o.relocs.foldlM (applyReloc bases o []) (o.sections.map (·.bytes)) = some [[1, 2, 3, 4]] ∧
    (9 * 65536 + 4 ≤ s.ptbase ∨ s.ptbase + 128 * 2 ^ s.ptlog2 ≤ 9 * 65536) ∧ s.ptbase + 128 * 2 ^ s.ptlog2 ≤ 2 ^ 52 ∧ parseObject [0] ≠ o ∧ (parseObject [0]).magic ≠ 0x31434F41 := by
  decide +kernel

theorem witness_DeviceSteps_monitors : let d : Die := { limits := #v[50, 60, 70, 5, 6, 7, 9] }
    d.limits.getD 2 0 = 70 ∧ ((70 : Int) ≤ 70 ∧ ¬ (70 : Int) ≤ 69) ∧ (2 ^ 51 : Nat) ≤ 2 ^ 51 + 5 ∧ (2 ^ 51 + 5 - 2 ^ 51) / 2 ^ 36 = 0 ∧
    task.contextBusy 2 = false ∧ (∃ h ∈ task.harts, h.run = .running ∧ h.asid = 1) ∧ task.pend = [] := by decide +kernel

/-- One granule of an arena, apart from the page table. -/
theorem witness_DeviceSteps_arena : let s := (task.mapEntry (pageEntry 1 8 8 true false ||| 0x1000000000)).getD task
    s.arenaOk { asid := 1, base := 0x80000, granules := 1 } = true ∧ s.arena 1 = none ∧ s.ptbase + 128 * 2 ^ s.ptlog2 + 8 ≤ 8 * 65536 ∧ s.ptbase + 128 * 2 ^ s.ptlog2 ≤ 2 ^ 52 ∧
    (match s.walk outside.die 1 0x80000 with
      | .hit x => x.pa == 8 * 65536
      | _ => false) = true := by decide +kernel

theorem witness_DecodeOfEncode : (Instr.add { d := 63, a := 63, b := 63 }).WellFormed ∧ Instr.nop.WellFormed ∧
    (Instr.vld { d := 63, a := 15, c := 6, msk := 7, mz := 1, h := 1, nf := 1, scope := 5, aux := 128, ofs := -1 }).WellFormed := by decide

end Sys2Proof.Tests
end

section
/-!
What a step of the running hart does: the fetch of a line and what it leaves unchanged, the checks of R32 as bits of the line, the
instruction words with OPC 0x00, and from these the step itself (01:R8, R20, R22; 02:R26, R27, R32, R33, R42).
-/

namespace Sys2Proof.Machine

/-! Counting ones (R26, R27). -/

/-- The parity folds of the model count the set bits. -/
theorem popCount_eq_countP (n v : Nat) : popCount n v = (List.range n).countP fun j => v.testBit j := by
  have count (l : List Nat) (c : Nat) :
      l.foldl (fun c k => if v.testBit k then c + 1 else c) c = c + l.countP fun j => v.testBit j := by
    induction l generalizing c with
    | nil => rfl
    | cons k l ih => cases h : v.testBit k <;> simp [ih, h, Nat.add_assoc, Nat.add_comm 1]
  simpa [popCount] using count (List.range n) 0

/-! The checks of R32, one lemma for each outcome. -/

theorem Line.slot_toNat (l : Line) (k : Nat) : (l.slot k).toNat = l.data.bits / 2 ^ (96 * k) % 2 ^ 96 := by
  simp [Line.slot]

theorem Line.slot_eq (l : Line) (k : Nat) : l.slot k = BitVec.ofNat 96 (l.data.bits / 2 ^ (96 * k) % 2 ^ 96) :=
  BitVec.eq_of_toNat_eq (by simp [Line.slot_toNat])

theorem Line.lparOk_iff (l : Line) : l.lparOk = true ↔ ((List.range 15).countP fun j => l.word.testBit j) % 2 = 0 := by
  simp [Line.lparOk, popCount_eq_countP]

theorem Line.reservedOk_iff (l : Line) : l.reservedOk = true ↔ l.word < 2 ^ 15 := by simp [Line.reservedOk]

theorem Line.sparOk_iff (l : Line) (k : Nat) : l.sparOk k = true ↔
    (((List.range 96).countP fun j => (l.data.bits / 2 ^ (96 * k) % 2 ^ 96).testBit j) + if l.word.testBit (9 + k) then 1 else 0) % 2 = 0 := by
  simp [Line.sparOk, popCount_eq_countP, Line.slot_toNat]

/-- A parity check that asks for an even number refuses an odd one. -/
theorem eq_false_of_odd {n : Nat} {b : Bool} (hb : b = true ↔ n % 2 = 0) (hn : n % 2 = 1) : b = false := by
  rw [← Bool.not_eq_true, hb, hn]
  decide

section Checks

variable {pc : Word} {l : Line}

theorem checkIssue_of_poison {j : Nat} {rest : List Nat} (h : l.data.poison = j :: rest) :
    checkIssue pc l = .error { cause := .poisonedData, addr := pcLine pc + word (8 * j) } := by
  simp [checkIssue, h]

theorem checkIssue_of_lpar (hp : l.data.poison = []) (h : l.lparOk = false) :
    checkIssue pc l = .error { cause := .lineParity, addr := pcLine pc, info := word (l.word + 2 ^ 32) } := by
  simp [checkIssue, hp, h]

theorem checkIssue_of_reserved (hp : l.data.poison = []) (hl : l.lparOk = true) (h : l.reservedOk = false) :
    checkIssue pc l = .error { cause := .malformedLine, addr := pcLine pc, info := word l.word } := by
  simp [checkIssue, hp, hl, h]

theorem checkIssue_of_spar (hp : l.data.poison = []) (hl : l.lparOk = true) (hr : l.reservedOk = true) (h : l.sparOk (pcSlot pc) = false) :
    checkIssue pc l = .error { cause := .lineParity, addr := pcLine pc, info := word l.word } := by
  simp [checkIssue, hp, hl, hr, h]

/-- The line and the slot pass the checks that come before decoding (R32). -/
def Line.Sound (l : Line) (k : Nat) : Prop := l.data.poison = [] ∧ l.lparOk = true ∧ l.reservedOk = true ∧ l.sparOk k = true

theorem checkIssue_of_decode_error (h : l.Sound (pcSlot pc)) {e : DecodeError} (hd : decode (l.slot (pcSlot pc)) = .error e) :
    checkIssue pc l = .error { cause := .illegalInstruction } := by
  obtain ⟨hp, hl, hr, hs⟩ := h
  simp [checkIssue, hp, hl, hr, hs, hd]

theorem checkIssue_of_decode_ok (h : l.Sound (pcSlot pc)) {i : Instr} (hd : decode (l.slot (pcSlot pc)) = .ok i) :
    checkIssue pc l = .ok i := by
  obtain ⟨hp, hl, hr, hs⟩ := h
  simp [checkIssue, hp, hl, hr, hs, hd]

end Checks

/-! What a fetch leaves unchanged. -/

/-- Code lies on pages: a fetch reaches no window (R208, R209). -/
theorem locate_exec_page {s : State} {q : Req} {va : Word} {t : Target} (hq : q.exec = true) (h : s.locate q va = .ok (.at_ t)) :
    ∃ x, t = .page x := by
  unfold State.locate at h
  split at h
  · cases h
  · split at h
    case h_4 =>
      split at h
      · split at h
        · cases h; exact ⟨_, rfl⟩
        · cases h
      · cases h
      · cases h
    all_goals simp [hq] at h

theorem fetch_line_page {s : State} {pc : Word} {l : Line} (h : s.fetch pc = .line l) : ∃ x, l.target = .page x := by
  unfold State.fetch at h
  simp only at h
  split at h
  · cases h
  · split at h
    · cases h
    · cases h
    · next t hl =>
      cases h
      exact locate_exec_page rfl hl

/-- An entry that a fold cannot tell from the one it replaces. -/
theorem foldl_set_of_eq {α β : Type} {f : β → α → β} {x y : α} (hf : ∀ b, f b y = f b x) (l : List α) (k : Nat) (b : β)
    (h : l[k]? = some x) : (l.set k y).foldl f b = l.foldl f b := by
  induction l generalizing k b with
  | nil => rfl
  | cons a l ih =>
    cases k with
    | zero =>
      obtain rfl : a = x := by simpa using h
      simp [hf]
    | succ k => exact ih k _ (by simpa using h)

/-- A store's mark depends on where it lies and on its length, not on its bytes (R214). -/
theorem poisonFrom_set_bytes (s : State) {k : Nat} {p : PendStore} (hk : s.pend[k]? = some p) {bytes : List Byte}
    (hb : bytes.length = p.bytes.length) (q : Place) (d src : Nat) :
    ({ s with pend := s.pend.set k { p with bytes } } : State).poisonFrom q d src = s.poisonFrom q d src :=
  foldl_set_of_eq (by simp [PendStore.visible, PendStore.overlaps, hb]) _ _ _ hk

/-- Bits set in an entry of the page table change no mark (R214, R229). -/
theorem orBits_unchanged (s : State) (die pa : Nat) (bits : Byte) : Unchanged [.memory, .stores] s (s.orBits die pa bits) := by
  unfold State.orBits
  split
  · next p k hlast =>
    have hk : s.pend[k]? = some p := by
      have hm := (List.mem_filter.mp (List.mem_of_getLast? hlast)).1
      simpa [List.mem_zipIdx_iff_getElem?] using hm
    intro c hc
    cases c
    case poison => exact fun q d => poisonFrom_set_bytes s hk (by simp) q d d
    all_goals simp_all [Piece.Same]
  · intro c hc
    cases c
    case poison => exact fun _ _ => rfl
    all_goals simp_all [Piece.Same]

theorem orBits_hart (s : State) (die pa : Nat) (bits : Byte) : (s.orBits die pa bits).hart = s.hart := by
  unfold State.orBits
  split <;> rfl

theorem setTlb_unchanged (s : State) (l : List TlbCopy) : Unchanged [.tlb] s { s with tlb := l } := by
  intro c hc
  cases c <;> simp_all [Piece.Same, State.byteAt, State.byteFrom, State.poisonFrom]

/-- A performed walk sets bits of its entry, and fills the TLBs unless the page migrates (R229, R231, R235). -/
theorem touchEntry_cases (s : State) (q : Req) (x : Xlat) : s.touchEntry q x = s ∨ ∃ bits, let u := s.orBits q.place.die (x.at_ + 3) bits
    s.touchEntry q x = u ∨ ∃ tlb, s.touchEntry q x = { u with tlb } := by
  unfold State.touchEntry
  split
  · exact .inl rfl
  · refine .inr ⟨if q.write then 0xC0 else 0x80, ?_⟩
    generalize (if q.write then (0xC0 : Byte) else 0x80) = bits, (x.entry ||| 0x80000000#128 ||| if q.write then 0x40000000#128 else 0#128) = e
    simp only
    split
    · exact .inl rfl
    · exact .inr ⟨_, rfl⟩

theorem touchEntry_unchanged (s : State) (q : Req) (x : Xlat) : Unchanged [.memory, .stores, .tlb] s (s.touchEntry q x) := by
  have hor (bits : Byte) := (orBits_unchanged s q.place.die (x.at_ + 3) bits).mono (l' := [.memory, .stores, .tlb]) (by simp)
  obtain h | ⟨bits, h | ⟨tlb, h⟩⟩ := touchEntry_cases s q x
  · rw [h]; exact .refl _ _
  · rw [h]; exact hor bits
  · rw [h]
    exact (hor bits).trans ((setTlb_unchanged _ _).mono (by simp)) (by rw [orBits_hart])

theorem touchEntry_hart (s : State) (q : Req) (x : Xlat) : (s.touchEntry q x).hart = s.hart := by
  obtain h | ⟨bits, h | ⟨tlb, h⟩⟩ := touchEntry_cases s q x <;> simp [h, orBits_hart]

/-- The copies of the line that a core and a loop buffer keep are pieces of their own (R74, R213). -/
theorem setLoopAndFetched_unchanged (s : State) (b : Option LoopBuffer) (f : List CachedLine) :
    Unchanged [.loop, .fetched] s { s with hart := { s.hart with loop := b }, fetched := f } := by
  intro c hc
  cases c
  case m => exact fun k _ => getM_of_eq rfl rfl k
  all_goals simp_all [Piece.Same, State.byteAt, State.byteFrom, State.poisonFrom]

/-- What a fetch may change. -/
def fetchPieces : List Piece := [.loop, .memory, .stores, .tlb, .fetched]

section KeepLine

variable {s : State} {pc : Word} {l : Line} (hl : s.fetch pc = .line l)
include hl

theorem keepLine_hart : (s.keepLine l).hart = { s.hart with loop := s.hart.loopAfter l.data } := by
  obtain ⟨x, hx⟩ := fetch_line_page hl
  simp [State.keepLine, State.touch, hx, touchEntry_hart]

theorem keepLine_unchanged : Unchanged fetchPieces s (s.keepLine l) := by
  obtain ⟨x, hx⟩ := fetch_line_page hl
  have ht : Unchanged fetchPieces s (s.touch s.hart.fetchReq l.target) := by
    rw [hx]
    exact (touchEntry_unchanged _ _ _).mono (by simp [fetchPieces])
  refine ht.trans ((setLoopAndFetched_unchanged _ _ _).mono (by simp [fetchPieces])) ?_
  rw [hx]
  exact congrArg Hart.firmware (touchEntry_hart ..)

theorem keepLine_trapEntry : (s.keepLine l).trapEntry = s.trapEntry :=
  (keepLine_unchanged hl .pageTable (by simp [fetchPieces])).2.2

theorem keepLine_fatal : (s.keepLine l).fatal = s.fatal := keepLine_unchanged hl .fatal (by simp [fetchPieces])

end KeepLine

/-! The fetched slot. -/

theorem fetchInstr_of_ok {s : State} {l : Line} {i : Instr} (hl : s.fetch s.hart.pc = .line l) (hc : checkIssue s.hart.pc l = .ok i) :
    fetchInstr s = .ok i (s.keepLine l) := by
  simp [fetchInstr, Op.bind_run, hl, hc]

/-- A check of R32 that fails tells by SEQF how control arrived (R20). -/
theorem fetchInstr_of_error {s : State} {l : Line} {t : Trap} (hl : s.fetch s.hart.pc = .line l)
    (hc : checkIssue s.hart.pc l = .error t) :
    fetchInstr s = .error (.trap { t with seqf := s.hart.sequential }) (s.keepLine l) := by
  simp [fetchInstr, Op.bind_run, hl, hc]

/-! The dump that may follow a step. -/

theorem dumpAfter_congr {s t : State} (h : s.fatal = t.fatal) (o : Host.Outcome State Fault Refusal) : dumpAfter s o = dumpAfter t o := by
  unfold dumpAfter
  rw [h]

/-- Without a new fatal error nothing follows the step. -/
theorem dumpAfter_next {s t : State} (h : s.fatal = none → t.fatal = none) : dumpAfter s (.next t) = .next t := by
  cases hs : s.fatal with
  | none => simp [dumpAfter, State.afterFatal, hs, h hs]
  | some r => simp [dumpAfter, hs]

/-! One step. -/

theorem step_event {s : State} {i : Instr} {arg : EventArg} {rest : List Agenda} (hf : s.fatal = none)
    (ha : s.agenda = .event i arg :: rest) (hc : i.code = none) :
    step s = dumpAfter { s with agenda := rest, arg } (exec i { s with agenda := rest, arg }) := by
  have hrun : State.perform { s with agenda := rest } (.event i arg) = exec i { s with agenda := rest, arg } :=
    if_pos (by simp [hc, hf])
  simp only [step, State.advance, ha, hrun]
  refine dumpAfter_congr ?_ _
  rfl

theorem step_idle {s : State} (ha : s.agenda = []) (h : s.fatal ≠ none ∨ s.hart.run = .idle ∨ s.atStop = true) : step s = .next s := by
  have hrun : s.runHart = .next s := by
    unfold State.runHart
    refine if_pos ?_
    simpa [Option.isSome_iff_ne_none, or_assoc] using h
  simp only [step, State.advance, ha, hrun]
  exact dumpAfter_next id

/-- The running hart takes its turn, and nothing keeps it from going on. -/
structure State.Turns (s : State) : Prop where
  agenda : s.agenda = []
  fatal : s.fatal = none
  run : s.hart.run ≠ .idle
  goesOn : s.atStop = false

theorem step_writeRecords {s : State} (h : s.Turns) {f : FaultWrite} (hf : s.hart.faulting = some f) :
    step s = dumpAfter s (.next (s.writeRecords f)) := by
  simp [step, State.advance, State.runHart, h.agenda, h.fatal, h.run, h.goesOn, hf]

section Issue

variable {s : State} {l : Line} (h : s.Turns) (hf : s.hart.faulting = none) (hl : s.fetch s.hart.pc = .line l)
include h hf hl

/-- A slot that passes the checks runs, unless the engine picks another hart (R170). -/
theorem step_of_checkIssue_ok {i : Instr} (hc : checkIssue s.hart.pc l = .ok i) :
    step s = dumpAfter s (if s.behindPick i then .next ((s.keepLine l).waitAt i) else exec i (s.keepLine l)) := by
  simp [step, State.advance, State.runHart, h.agenda, h.fatal, h.run, h.goesOn, hf, fetchInstr_of_ok hl hc]

theorem step_of_checkIssue_error {t : Trap} (hc : checkIssue s.hart.pc l = .error t) :
    step s = dumpAfter s (.next ((s.keepLine l).takeTrap { t with seqf := s.hart.sequential })) := by
  simp [step, State.advance, State.runHart, h.agenda, h.fatal, h.run, h.goesOn, hf, fetchInstr_of_error hl hc]

/-- A slot that fails a check raises its cause at task privilege, and nothing of it executes (R20, R22, R32). -/
theorem step_raises {c : Cause} {addr info : Word} (hp : c ≠ .protection) (hc : checkIssue s.hart.pc l = .error { cause := c, addr, info })
    (ht : s.hart.firmware = false) : ∃ t, step s = .next t ∧ Enters s t c s.hart.pc addr info s.hart.sequential ∧
      t.hart.csr.elx = s.hart.csr.elx ∧ Unchanged [.privilege, .csrs, .loop, .memory, .stores, .tlb, .fetched] s t := by
  have hv := keepLine_hart hl
  have hvt : (s.keepLine l).hart.firmware = false := by rw [hv, ← ht]
  obtain ⟨henter, helx, -, hun⟩ := takeTrap_task hvt { cause := c, addr, info, seqf := s.hart.sequential }
  refine ⟨(s.keepLine l).takeTrap { cause := c, addr, info, seqf := s.hart.sequential }, ?_, ?_, ?_, ?_⟩
  · rw [step_of_checkIssue_error h hf hl hc]
    refine dumpAfter_next fun hs => ?_
    rw [hun .fatal (by simp [trapPieces, hp]), keepLine_fatal hl, hs]
  · simpa [Enters, keepLine_trapEntry hl, hv] using henter
  · rw [helx, hv]
  · have hfetch := (keepLine_unchanged hl).mono (l' := [.privilege, .csrs, .loop, .memory, .stores, .tlb, .fetched]) (by simp [fetchPieces])
    exact hfetch.trans (hun.mono (by simp [trapPieces, hp])) (by rw [hv])

theorem step_waits_behindPick {i : Instr} (hc : checkIssue s.hart.pc l = .ok i) (hb : s.behindPick i = true) :
    step s = dumpAfter s (.next ((s.keepLine l).waitAt i)) := by
  rw [step_of_checkIssue_ok h hf hl hc, if_pos hb]

theorem step_runs {i : Instr} (hc : checkIssue s.hart.pc l = .ok i) (hb : s.behindPick i = false) :
    step s = dumpAfter s (exec i (s.keepLine l)) := by
  rw [step_of_checkIssue_ok h hf hl hc, if_neg (by simp [hb])]

end Issue

/-! The words with OPC 0x00 (R42). -/

/-- The word of NOP. -/
def nopWord : SlotWord := 0x0001_0000_0000_0000_0000_0000

theorem decode_nopWord : decode nopWord = .ok .nop := rfl

/-- Low bits that are zero, and a field above them that is zero. -/
theorem mod_eq_zero_of_field {n a : Nat} (b : Nat) (hlow : n % 2 ^ a = 0) (hfield : n / 2 ^ a % 2 ^ b = 0) : n % 2 ^ (a + b) = 0 := by
  rw [Nat.pow_add, Nat.mod_mul, hlow, hfield, Nat.mul_zero]

/-- The fields of format G, OPC and FN make up the whole word (R36). -/
theorem eq_nopWord_of_fields {w : SlotWord} (hopc : (w.extractLsb' 88 8).toNat = 0) (hfn : (w.extractLsb' 80 6).toNat = 1)
    (hg : GOp.ofWord w = { form := 0 }) : w = nopWord := by
  have hw := w.isLt
  simp only [BitVec.extractLsb'_toNat, Nat.shiftRight_eq_div_pow] at hopc hfn
  simp only [GOp.ofWord, GOp.mk.injEq, ← BitVec.toNat_inj, BitVec.extractLsb'_toNat, Nat.shiftRight_eq_div_pow] at hg
  obtain ⟨hform, hd, ha, hb, hc, hmsk, hmz, hfl, hx, himm⟩ := hg
  have h80 : w.toNat % 2 ^ 80 = 0 := by
    have h32 : w.toNat % 2 ^ 32 = 0 := by simpa using himm
    have h48 := mod_eq_zero_of_field 16 h32 hx
    have h52 := mod_eq_zero_of_field 4 h48 hfl
    have h53 := mod_eq_zero_of_field 1 h52 hmz
    have h56 := mod_eq_zero_of_field 3 h53 hmsk
    have h62 := mod_eq_zero_of_field 6 h56 hc
    have h68 := mod_eq_zero_of_field 6 h62 hb
    have h74 := mod_eq_zero_of_field 6 h68 ha
    exact mod_eq_zero_of_field 6 h74 hd
  have hhigh : w.toNat / 2 ^ 80 = 1 := by
    have e86 : w.toNat / 2 ^ 86 = w.toNat / 2 ^ 80 / 2 ^ 6 := by rw [Nat.div_div_eq_div_mul, ← Nat.pow_add]
    have e88 : w.toNat / 2 ^ 88 = w.toNat / 2 ^ 80 / 2 ^ 8 := by rw [Nat.div_div_eq_div_mul, ← Nat.pow_add]
    have hlt : w.toNat / 2 ^ 80 < 2 ^ 16 := Nat.div_lt_of_lt_mul hw
    have hz : (0 : BitVec 2).toNat = 0 := rfl
    rw [e86, hz] at hform
    rw [e88] at hopc
    generalize w.toNat / 2 ^ 80 = m at *
    omega
  refine BitVec.eq_of_toNat_eq ?_
  rw [← Nat.div_add_mod w.toNat (2 ^ 80), h80, hhigh]
  rfl

/-- NOP is the only instruction with OPC 0x00. -/
theorem decode_of_opc_zero {w : SlotWord} (hopc : (w.extractLsb' 88 8).toNat = 0) (hw : w ≠ nopWord) : ∃ e, decode w = .error e := by
  by_cases hfn : (w.extractLsb' 80 6).toNat = 1
  · have hg : GOp.ofWord w ≠ { form := 0 } := fun hg => hw (eq_nopWord_of_fields hopc hfn hg)
    have hcode : ofCode 0 1 w = .error .illegalField := if_neg (by simpa using hg)
    exact ⟨.illegalField, by rw [decode, hopc, hfn, hcode]⟩
  · have hcode : ofCode 0 (w.extractLsb' 80 6).toNat w = .error .unassigned := by simp only [ofCode]
    exact ⟨.unassigned, by rw [decode, hopc, hcode]⟩

/-- NOP completes and changes the PC alone. -/
theorem nop_completes (s : State) : Completes .nop s [] fun _ => True :=
  completes_of_body (body := pure ()) (exec_nop s) rfl rfl rfl (.refl _ _) trivial

/-- NOP's slot has an odd number of ones, so that its SPAR bit is 1 (R27). -/
theorem spar_of_nopWord {l : Line} {k : Nat} (hs : l.sparOk k = true) (hw : l.data.bits / 2 ^ (96 * k) % 2 ^ 96 = 0x0001_0000_0000_0000_0000_0000) :
    l.word.testBit (9 + k) = true := by
  have hones : ((List.range 96).countP fun j => (0x0001_0000_0000_0000_0000_0000 : Nat).testBit j) = 1 := by decide +kernel
  rw [Line.sparOk_iff, hw, hones] at hs
  cases hb : l.word.testBit (9 + k) with
  | true => rfl
  | false =>
    rw [hb] at hs
    exact absurd hs (by decide)

/-- Settles O55: each clause is what the step is once the checks of R32 and the decoder have answered. -/
theorem stepRunsDecodedInstruction : Obligations.StepRunsDecodedInstruction := by
  intro s
  refine ⟨fun hf i arg rest ha hc => step_event hf ha hc, step_idle, fun ha hf hr hstop => ?_⟩
  have hturn : s.Turns := ⟨ha, hf, hr, hstop⟩
  refine ⟨fun f => step_writeRecords hturn, fun hfault l hl => ?_⟩
  intro pc line k v w slot ones parityBit raises sound
  have hraises {c : Cause} {addr info : Word} (hp : c ≠ .protection)
      (hc : checkIssue pc l = .error { cause := c, addr, info }) : raises c addr info :=
    step_raises hturn hfault hl hp hc
  have hsound : sound → l.Sound (pcSlot pc) := fun ⟨hp, hlpar, hres, hs⟩ =>
    ⟨hp, l.lparOk_iff.mpr hlpar, l.reservedOk_iff.mpr hres, (l.sparOk_iff k).mpr hs⟩
  have hslot : l.slot (pcSlot pc) = BitVec.ofNat 96 slot := l.slot_eq k
  have hillegal (hs : sound) {e : DecodeError} (hd : decode (BitVec.ofNat 96 slot) = .error e) : raises .illegalInstruction 0 0 :=
    hraises (by decide) (checkIssue_of_decode_error (hsound hs) (hslot ▸ hd))
  have hissues (hs : sound) {i : Instr} (hd : decode (BitVec.ofNat 96 slot) = .ok i) : checkIssue pc l = .ok i :=
    checkIssue_of_decode_ok (hsound hs) (hslot ▸ hd)
  refine ⟨?poison, ?lpar, ?reserved, ?spar, fun hs e => hillegal hs, ?behind, ?runs, ?opcZero, ?nop⟩
  case poison => exact fun j rest h => hraises (by decide) (checkIssue_of_poison h)
  case lpar => exact fun hp h => hraises (by decide) (checkIssue_of_lpar hp (eq_false_of_odd l.lparOk_iff h))
  case reserved =>
    refine fun hp hlpar h => hraises (by decide) (checkIssue_of_reserved hp (l.lparOk_iff.mpr hlpar) ?_)
    rw [← Bool.not_eq_true, l.reservedOk_iff]
    exact Nat.not_lt.mpr h
  case spar =>
    exact fun hp hlpar hres h => hraises (by decide)
      (checkIssue_of_spar hp (l.lparOk_iff.mpr hlpar) (l.reservedOk_iff.mpr hres) (eq_false_of_odd (l.sparOk_iff k) h))
  case behind => exact fun hs i hd hb => step_waits_behindPick hturn hfault hl (hissues hs hd) hb
  case runs =>
    intro hs i hd hb
    have hstep := step_runs hturn hfault hl (hissues hs hd) hb
    exact ⟨hstep, fun t ht hn => by rw [hstep, ht, dumpAfter_next fun _ => hn]⟩
  case opcZero =>
    intro hs hopc hw
    have hlt : slot < 2 ^ 96 := Nat.mod_lt _ (by decide)
    have hnat : (BitVec.ofNat 96 slot).toNat = slot := by rw [BitVec.toNat_ofNat, Nat.mod_eq_of_lt hlt]
    obtain ⟨e, he⟩ := decode_of_opc_zero (w := BitVec.ofNat 96 slot) (by rw [BitVec.extractLsb'_toNat, hnat, Nat.shiftRight_eq_div_pow, hopc])
      fun h => hw (by rw [← hnat, h]; rfl)
    exact hillegal hs he
  case nop =>
    intro hs hw
    obtain ⟨-, -, -, hspar⟩ := hsound hs
    refine ⟨if_pos (spar_of_nopWord hspar hw), ?_, nop_completes v⟩
    exact step_runs hturn hfault hl (hissues hs (by rw [hw]; exact decode_nopWord)) rfl

end Sys2Proof.Machine
end

section
/-!
The scalar instructions with a destination: what each of them leaves, and the results of OPC 0x01 and 0x02 as arithmetic on numbers
(01:R11; 04:R65 to R69).
-/

namespace Sys2Proof.Machine

/-! What reading and writing scalar registers leaves. -/

theorem auRead_unchanged (s : State) (l : List Reg) : Unchanged [.decoupling] s { s with hart := s.hart.auRead l } := by
  intro p hp
  cases p
  case m => exact fun k _ => getM_of_eq (by simp) (by simp) k
  all_goals simp_all [Piece.Same, State.byteAt, State.byteFrom, State.poisonFrom]

theorem setX_unchanged (s : State) (d : Reg) (v : Word) : Unchanged [.x, .decoupling] s { s with hart := s.hart.setX d v } := by
  intro p hp
  cases p
  case m => exact fun k _ => getM_of_eq (by simp) (by simp) k
  all_goals simp_all [Piece.Same, State.byteAt, State.byteFrom, State.poisonFrom]

theorem Hart.waitsFor_iff (h : Hart) (r : Reg) : h.waitsFor r = true ↔ 32 ≤ r.toNat ∨ h.fromXu.getLsbD r.toNat = true := by
  simp [Hart.waitsFor]

/-- One loss for the whole instruction, however many of its sources the access unit waits for (R11, R272). -/
theorem Hart.auRead_decloss (h : Hart) (l : List Reg) : (h.auRead l).counters.decloss =
    if h.waiting = none ∧ ∃ r ∈ l, 32 ≤ r.toNat ∨ h.fromXu.getLsbD r.toNat = true then satIncr h.counters.decloss
    else h.counters.decloss := by
  simp only [← Hart.waitsFor_iff, ← List.any_eq_true]
  cases hl : l.any h.waitsFor with
  | false => simp [Hart.auRead, hl]
  | true => cases hw : h.waiting <;> simp [Hart.auRead, Hart.loseDecoupling, hl, hw]

/-! A scalar instruction with a destination (R65, R67). -/

/-- What a scalar instruction may change. -/
def scalarPieces (d : Reg) : List Piece := if d = 0 then [] else [.x, .decoupling]

/-- The hart after a scalar instruction with the result `v`, but for its completion. -/
def Hart.afterScalar (h : Hart) (d : Reg) (srcs : List Reg) (v : Word) : Hart :=
  if d = 0 then h else (if d.toNat < 32 then h.auRead srcs else h).setX d v

theorem scalarOp_eq (i : Instr) (d : Reg) (srcs : List Reg) (f : Hart → Word) (s : State) :
    scalarOp i d srcs f s = finishNext i (modHart fun h => h.afterScalar d srcs (f h)) s := rfl

section AfterScalar

variable (h : Hart) (s : State) (d : Reg) (srcs : List Reg) (v : Word)

theorem Hart.afterScalar_zero : h.afterScalar 0 srcs v = h := if_pos rfl

theorem Hart.afterScalar_of_ne {d : Reg} (hd : d ≠ 0) :
    h.afterScalar d srcs v = (if d.toNat < 32 then h.auRead srcs else h).setX d v := if_neg hd

theorem Hart.afterScalar_getX (r : Reg) : (h.afterScalar d srcs v).getX r = (h.setX d v).getX r := by
  by_cases hd : d = 0
  · rw [hd, Hart.afterScalar_zero, Hart.setX, if_pos rfl]
  · rw [Hart.afterScalar_of_ne h srcs v hd]
    split <;> simp only [Hart.getX_setX, Hart.getX_auRead]

theorem Hart.afterScalar_decloss : (h.afterScalar d srcs v).counters.decloss =
    if h.waiting = none ∧ d ≠ 0 ∧ d.toNat < 32 ∧ ∃ r ∈ srcs, 32 ≤ r.toNat ∨ h.fromXu.getLsbD r.toNat = true then
      satIncr h.counters.decloss
    else h.counters.decloss := by
  by_cases hd : d = 0
  · rw [hd, Hart.afterScalar_zero, if_neg (by simp)]
  · rw [Hart.afterScalar_of_ne h srcs v hd, Hart.setX_counters]
    by_cases hs : d.toNat < 32
    · simp only [hs, if_true, Hart.auRead_decloss, ne_eq, hd, not_false_eq_true, true_and]
    · simp only [hs, if_false, false_and, and_false]

theorem Hart.afterScalar_pc : (h.afterScalar d srcs v).pc = h.pc := by
  by_cases hd : d = 0
  · rw [hd, Hart.afterScalar_zero]
  · rw [Hart.afterScalar_of_ne h srcs v hd]
    split <;> simp

theorem afterScalar_unchanged : Unchanged (scalarPieces d) s { s with hart := s.hart.afterScalar d srcs v } := by
  by_cases hd : d = 0
  · rw [hd, Hart.afterScalar_zero]
    exact .refl _ _
  · rw [Hart.afterScalar_of_ne _ srcs v hd, scalarPieces, if_neg hd]
    split
    · exact ((auRead_unchanged s srcs).mono (by simp)).trans (setX_unchanged _ d v) (by simp)
    · exact setX_unchanged s d v

theorem afterScalar_firmware : (s.hart.afterScalar d srcs v).firmware = s.hart.firmware :=
  afterScalar_unchanged s d srcs v .privilege (by unfold scalarPieces; split <;> simp)

end AfterScalar

/-- A state whose scalar registers are those of one write. -/
theorem writesX_of_setX {s t : State} {d : Reg} {v : Word} (h : ∀ r, t.x r = (s.hart.setX d v).getX r) : WritesX d v s t := by
  refine ⟨by simp only [h, Hart.getX_setX, if_true], fun r hr => ?_⟩
  rw [h, Hart.getX_setX, if_neg hr]
  split
  · next h0 => rw [h0, State.x, Hart.getX_zero]
  · rfl

/-- Completing keeps every scalar register and DECLOSS. -/
theorem complete_x (s : State) (r : Reg) : (s.complete .next).x r = s.x r := by
  have h : (s.complete .next).hart.x = s.hart.x := complete_unchanged s (f := .next) (by simp) .x (by simp)
  simp only [State.x, Hart.getX, h]

theorem complete_counters (s : State) : (s.complete .next).hart.counters = s.hart.counters :=
  (complete_unchanged s (f := .next) (by simp) .decoupling (by simp)).1

/-- A scalar instruction writes its result and nothing else, and an access-side one counts its loss of decoupling (R11, R65, R67). -/
theorem scalarOp_completes {i : Instr} {d : Reg} {srcs : List Reg} {f : Hart → Word} {s : State} {v : Word}
    (hx : exec i s = scalarOp i d srcs f s) (hv : f s.hart = v) :
    Completes i s (scalarPieces d) fun t => WritesX d v s t ∧ CountsLoss d srcs s t := by
  subst hv
  refine completes_of_body (hx.trans (scalarOp_eq i d srcs f s)) (modHart_run _ s) (Hart.afterScalar_pc ..) (afterScalar_firmware s ..)
    (afterScalar_unchanged s d srcs _) ⟨writesX_of_setX fun r => ?_, ?_⟩
  · rw [complete_x, State.x, Hart.afterScalar_getX]
  · rw [CountsLoss, complete_counters, Hart.afterScalar_decloss]

/-- A member of OPC 0x01 with two sources (R65). -/
theorem scalar2_completes {i : Instr} {o : GOp} {f : Word → Word → Word} {s : State} {v : Word}
    (hx : exec i s = scalar2 i o f s) (hv : f (s.x o.a) (s.x o.b) = v) :
    Completes i s (scalarPieces o.d) fun t => WritesX o.d v s t ∧ CountsLoss o.d [o.a, o.b] s t :=
  scalarOp_completes hx hv

/-- A member of OPC 0x02 with a source and an immediate (R68). -/
theorem scalarImm_completes {i : Instr} {o : GOp} {f : Word → Word → Word} {s : State} {v : Word}
    (hx : exec i s = scalarImm i o f s) (hv : f (s.x o.a) (sext32 o.imm) = v) :
    Completes i s (scalarPieces o.d) fun t => WritesX o.d v s t ∧ CountsLoss o.d [o.a] s t :=
  scalarOp_completes hx hv

/-- A shift by an amount in IMM (R68). -/
theorem scalarAmount_completes {i : Instr} {o : GOp} {f : Word → Nat → Word} {s : State} {v : Word}
    (hx : exec i s = scalarAmount i o f s) (hv : f (s.x o.a) o.imm.toNat = v) :
    Completes i s (scalarPieces o.d) fun t => WritesX o.d v s t ∧ CountsLoss o.d [o.a] s t :=
  scalarOp_completes hx hv

/-! The results as numbers (R65). -/

theorem sub_eq_ofInt (a b : Word) : a - b = BitVec.ofInt 64 (a.toInt - b.toInt) :=
  BitVec.eq_of_toInt_eq (by simp)

theorem add_eq_ofInt (a b : Word) : a + b = BitVec.ofInt 64 (a.toInt + b.toInt) := by
  rw [BitVec.ofInt_add, BitVec.ofInt_toInt, BitVec.ofInt_toInt]

theorem mul_eq_ofInt (a b : Word) : a * b = BitVec.ofInt 64 (a.toInt * b.toInt) := by
  rw [BitVec.ofInt_mul, BitVec.ofInt_toInt, BitVec.ofInt_toInt]

theorem mul_eq_ofNat (a b : Word) : a * b = BitVec.ofNat 64 (a.toNat * b.toNat) :=
  BitVec.eq_of_toNat_eq (by simp)

theorem shiftLeft_eq_ofNat (a : Word) (n : Nat) : a <<< n = BitVec.ofNat 64 (a.toNat * 2 ^ n) :=
  BitVec.eq_of_toNat_eq (by simp [Nat.shiftLeft_eq])

theorem ushiftRight_eq_ofNat (a : Word) (n : Nat) : a >>> n = BitVec.ofNat 64 (a.toNat / 2 ^ n) := by
  rw [← Nat.shiftRight_eq_div_pow, ← BitVec.toNat_ushiftRight, BitVec.ofNat_toNat, BitVec.setWidth_eq]

theorem sshiftRight_eq_ofInt (a : Word) (n : Nat) : a.sshiftRight n = BitVec.ofInt 64 (a.toInt / 2 ^ n) := by
  rw [BitVec.sshiftRight, Int.shiftRight_eq_div_pow, Int.natCast_pow]
  rfl

/-- The low six bits of `b` are an amount that a rotation takes as it stands. -/
theorem rotateLeft_eq_ofNat (a b : Word) : a.rotateLeft (amountOf b) =
    BitVec.ofNat 64 (a.toNat * 2 ^ (b.toNat % 64)) ||| BitVec.ofNat 64 (a.toNat / 2 ^ (64 - b.toNat % 64)) := by
  rw [BitVec.rotateLeft_def, amountOf, Nat.mod_mod, shiftLeft_eq_ofNat, ushiftRight_eq_ofNat]

theorem rotateRight_eq_ofNat (a b : Word) : a.rotateRight (amountOf b) =
    BitVec.ofNat 64 (a.toNat / 2 ^ (b.toNat % 64)) ||| BitVec.ofNat 64 (a.toNat * 2 ^ (64 - b.toNat % 64)) := by
  rw [BitVec.rotateRight_def, amountOf, Nat.mod_mod, shiftLeft_eq_ofNat, ushiftRight_eq_ofNat]

theorem flagWord_slt (a b : Word) : flagWord (a.slt b) = if a.toInt < b.toInt then 1 else 0 := by
  simp [flagWord, BitVec.slt_iff_toInt_lt]

theorem flagWord_ult (a b : Word) : flagWord (a.ult b) = if a.toNat < b.toNat then 1 else 0 := by
  simp [flagWord, BitVec.ult_iff_toNat_lt]

theorem min_eq_ofInt (a b : Word) : (if a.slt b then a else b) = BitVec.ofInt 64 (min a.toInt b.toInt) := by
  simp only [BitVec.slt_iff_toInt_lt]
  split
  · next h => rw [Int.min_eq_left (Int.le_of_lt h), BitVec.ofInt_toInt]
  · next h => rw [Int.min_eq_right (Int.not_lt.mp h), BitVec.ofInt_toInt]

theorem max_eq_ofInt (a b : Word) : (if a.slt b then b else a) = BitVec.ofInt 64 (max a.toInt b.toInt) := by
  simp only [BitVec.slt_iff_toInt_lt]
  split
  · next h => rw [Int.max_eq_right (Int.le_of_lt h), BitVec.ofInt_toInt]
  · next h => rw [Int.max_eq_left (Int.not_lt.mp h), BitVec.ofInt_toInt]

theorem min_eq_ofNat (a b : Word) : (if a.ult b then a else b) = BitVec.ofNat 64 (min a.toNat b.toNat) := by
  simp only [BitVec.ult_iff_toNat_lt]
  split
  · next h => rw [Nat.min_eq_left (Nat.le_of_lt h), BitVec.ofNat_toNat, BitVec.setWidth_eq]
  · next h => rw [Nat.min_eq_right (Nat.not_lt.mp h), BitVec.ofNat_toNat, BitVec.setWidth_eq]

theorem max_eq_ofNat (a b : Word) : (if a.ult b then b else a) = BitVec.ofNat 64 (max a.toNat b.toNat) := by
  simp only [BitVec.ult_iff_toNat_lt]
  split
  · next h => rw [Nat.max_eq_right (Nat.le_of_lt h), BitVec.ofNat_toNat, BitVec.setWidth_eq]
  · next h => rw [Nat.max_eq_left (Nat.not_lt.mp h), BitVec.ofNat_toNat, BitVec.setWidth_eq]

/-- The remainder goes with the truncated quotient (R66). -/
theorem remSigned_eq (a b : Word) :
    remSigned a b = if b = 0 then a else BitVec.ofInt 64 (a.toInt - b.toInt * a.toInt.tdiv b.toInt) := by
  rw [remSigned, Int.tmod_def]

/-! Immediates (R68, R69). -/

theorem sext32_toInt (i : BitVec 32) : (sext32 i).toInt = i.toInt := BitVec.toInt_signExtend_of_le (by decide)

/-- LIHI keeps the low half of its source and puts IMM above it. -/
theorem lihi_eq_ofNat (a : Word) (i : BitVec 32) :
    (a &&& (0xFFFFFFFF : Word)) ||| (i.setWidth 64 <<< 32) = BitVec.ofNat 64 (a.toNat % 2 ^ 32 + i.toNat * 2 ^ 32) := by
  have hlow : a &&& (0xFFFFFFFF : Word) = BitVec.ofNat 64 (a.toNat % 2 ^ 32) := by
    rw [← Nat.and_two_pow_sub_one_eq_mod, BitVec.ofNat_and, BitVec.ofNat_toNat, BitVec.setWidth_eq]
    rfl
  have hhigh : i.setWidth 64 <<< 32 = BitVec.ofNat 64 (i.toNat <<< 32) := by
    rw [shiftLeft_eq_ofNat, BitVec.toNat_setWidth_of_le (by decide), Nat.shiftLeft_eq]
  have hor : a.toNat % 2 ^ 32 ||| i.toNat <<< 32 = a.toNat % 2 ^ 32 + i.toNat * 2 ^ 32 := by
    rw [Nat.or_comm, ← Nat.shiftLeft_add_eq_or_of_lt (Nat.mod_lt _ (by decide)), Nat.shiftLeft_eq, Nat.add_comm]
  rw [hlow, hhigh, ← BitVec.ofNat_or, hor]

/-- Settles O1: each member is `scalarOp` with its result, and the result is the arithmetic that R65 to R69 give. -/
theorem scalarArithmetic : Obligations.ScalarArithmetic := by
  refine ⟨fun o s => ?_, fun o s => ⟨?_, scalarOp_completes (exec_li o s) rfl, fun _ => ?_⟩⟩
  · simp only [List.forall_mem_cons]
    exact ⟨scalar2_completes (exec_add o s) (BitVec.add_def _ _),
      scalar2_completes (exec_sub o s) (sub_eq_ofInt _ _),
      scalar2_completes (exec_and o s) rfl,
      scalar2_completes (exec_or o s) rfl,
      scalar2_completes (exec_xor o s) rfl,
      scalar2_completes (exec_andn o s) rfl,
      scalar2_completes (exec_sll o s) (shiftLeft_eq_ofNat _ _),
      scalar2_completes (exec_srl o s) (ushiftRight_eq_ofNat _ _),
      scalar2_completes (exec_sra o s) (sshiftRight_eq_ofInt _ _),
      scalar2_completes (exec_rol o s) (rotateLeft_eq_ofNat _ _),
      scalar2_completes (exec_ror o s) (rotateRight_eq_ofNat _ _),
      scalar2_completes (exec_slt o s) (flagWord_slt _ _),
      scalar2_completes (exec_sltu o s) (flagWord_ult _ _),
      scalar2_completes (exec_min o s) (min_eq_ofInt _ _),
      scalar2_completes (exec_max o s) (max_eq_ofInt _ _),
      scalar2_completes (exec_minu o s) (min_eq_ofNat _ _),
      scalar2_completes (exec_maxu o s) (max_eq_ofNat _ _),
      scalar2_completes (exec_mul o s) (mul_eq_ofNat _ _),
      scalar2_completes (exec_mulh o s) rfl,
      scalar2_completes (exec_mulhu o s) rfl,
      scalar2_completes (exec_div o s) rfl,
      scalar2_completes (exec_divu o s) rfl,
      scalar2_completes (exec_rem o s) (remSigned_eq _ _),
      scalar2_completes (exec_remu o s) rfl,
      List.forall_mem_nil _⟩
  · simp only [List.forall_mem_cons, ← sext32_toInt]
    exact ⟨scalarImm_completes (exec_addi o s) (add_eq_ofInt _ _),
      scalarImm_completes (exec_andi o s) rfl,
      scalarImm_completes (exec_ori o s) rfl,
      scalarImm_completes (exec_xori o s) rfl,
      scalarImm_completes (exec_slti o s) (flagWord_slt _ _),
      scalarImm_completes (exec_sltiu o s) (flagWord_ult _ _),
      scalarImm_completes (exec_muli o s) (mul_eq_ofInt _ _),
      scalarOp_completes (exec_lihi o s) (lihi_eq_ofNat _ _),
      List.forall_mem_nil _⟩
  · simp only [List.forall_mem_cons]
    exact ⟨scalarAmount_completes (exec_slli o s) (shiftLeft_eq_ofNat _ _),
      scalarAmount_completes (exec_srli o s) (ushiftRight_eq_ofNat _ _),
      scalarAmount_completes (exec_srai o s) (sshiftRight_eq_ofInt _ _),
      List.forall_mem_nil _⟩

end Sys2Proof.Machine
end

section
/-!
The deal of lane groups (R96, R97, R100). The allotment is a function of the turns made: by any moment before the sixteenth group is
handed out, each slot has taken a group at every turn of its own until its demand was met, and the turns go round the four slots.
-/

namespace Sys2Proof.Machine

/-! The turns of a deal. -/

/-- The turns that slot `k` has had after `n` turns, of which slot `first` had the first. -/
def turnsHad (first n k : Nat) : Nat := (n + 3 - (k + 4 - first) % 4) / 4

/-- What a deal has allotted after `n` turns from slot `first` on, while groups were left. -/
def AfterTurns (demand : Vector Nat 4) (first n : Nat) (alloc : Vector Nat 4) : Prop :=
  ∀ k < 4, alloc.getD k 0 = min (demand.getD k 0) (turnsHad first n k)

/-- The groups that an allotment hands out. -/
def groupsOf (alloc : Vector Nat 4) : Nat := alloc.getD 0 0 + alloc.getD 1 0 + alloc.getD 2 0 + alloc.getD 3 0

section Turns

variable {first n k : Nat}

theorem turnsHad_zero (first k : Nat) : turnsHad first 0 k = 0 := by
  unfold turnsHad
  omega

theorem turnsHad_succ (hk : k < 4) (hf : first < 4) :
    turnsHad first (n + 1) k = turnsHad first n k + if k = (first + n) % 4 then 1 else 0 := by
  unfold turnsHad
  split <;> omega

/-- No slot is more than one turn ahead of another. -/
theorem turnsHad_le_succ (first n j k : Nat) : turnsHad first n j ≤ turnsHad first n k + 1 := by
  unfold turnsHad
  omega

theorem le_turnsHad (r : Nat) (h : 4 * r ≤ n) : r ≤ turnsHad first n k := by
  unfold turnsHad
  omega

end Turns

/-! One turn. -/

section AfterTurns

variable {demand alloc : Vector Nat 4} {first n : Nat}

theorem afterTurns_replicate_zero : AfterTurns demand first 0 (Vector.replicate 4 0) := by
  intro k hk
  simp [turnsHad_zero, Vector.getD, hk]

/-- The slot whose turn it is wants a group and takes one. -/
theorem AfterTurns.give (h : AfterTurns demand first n alloc) (hf : first < 4)
    (hw : alloc.getD ((first + n) % 4) 0 < demand.getD ((first + n) % 4) 0) :
    AfterTurns demand first (n + 1)
      (alloc.setIfInBounds ((first + n) % 4) (alloc.getD ((first + n) % 4) 0 + 1)) := by
  intro k hk
  have hold := h k hk
  rw [getD_setIfInBounds, turnsHad_succ hk hf]
  by_cases ht : k = (first + n) % 4
  · subst ht
    rw [if_pos ⟨rfl, hk⟩, if_pos rfl]
    omega
  · rw [if_neg (fun hc => ht hc.1), if_neg ht]
    exact hold

/-- The slot whose turn it is has what it wants, and is passed. -/
theorem AfterTurns.pass (h : AfterTurns demand first n alloc) (hf : first < 4)
    (hw : demand.getD ((first + n) % 4) 0 ≤ alloc.getD ((first + n) % 4) 0) : AfterTurns demand first (n + 1) alloc := by
  intro k hk
  have hold := h k hk
  rw [turnsHad_succ hk hf]
  by_cases ht : k = (first + n) % 4
  · subst ht
    rw [if_pos rfl]
    omega
  · rw [if_neg ht]
    exact hold

theorem AfterTurns.le (h : AfterTurns demand first n alloc) {k : Nat} (hk : k < 4) : alloc.getD k 0 ≤ demand.getD k 0 := by
  rw [h k hk]
  exact Nat.min_le_left _ _

/-- A slot that still wants a group has at most one fewer than any other. -/
theorem AfterTurns.even (h : AfterTurns demand first n alloc) {j k : Nat} (hj : j < 4) (hk : k < 4)
    (hw : alloc.getD k 0 < demand.getD k 0) : alloc.getD j 0 ≤ alloc.getD k 0 + 1 := by
  have hturns := turnsHad_le_succ first n j k
  have hallocJ := h j hj
  have hallocK := h k hk
  omega

/-- Sixteen rounds satisfy every slot. -/
theorem AfterTurns.satisfied (h : AfterTurns demand first n alloc) {k : Nat} (hk : k < 4) (hn : 64 ≤ n)
    (hd : demand.getD k 0 ≤ 16) : alloc.getD k 0 = demand.getD k 0 := by
  rw [h k hk]
  exact Nat.min_eq_left (Nat.le_trans hd (le_turnsHad 16 hn))

end AfterTurns

theorem groupsOf_give {t : Nat} (alloc : Vector Nat 4) (ht : t < 4) :
    groupsOf (alloc.setIfInBounds t (alloc.getD t 0 + 1)) = groupsOf alloc + 1 := by
  simp only [groupsOf, getD_setIfInBounds]
  obtain rfl | rfl | rfl | rfl : t = 0 ∨ t = 1 ∨ t = 2 ∨ t = 3 := by omega
  all_goals simp +arith

/-! The end of a deal. -/

/-- A deal of at most `n` turns, which stops early only when the sixteen groups are handed out. -/
def DealtWithin (demand : Vector Nat 4) (first n : Nat) (alloc : Vector Nat 4) : Prop :=
  ∃ m, AfterTurns demand first m alloc ∧ groupsOf alloc ≤ 16 ∧ (groupsOf alloc = 16 ∨ m = n)

theorem groupsOf_le {a b : Vector Nat 4} (h : ∀ k < 4, a.getD k 0 ≤ b.getD k 0) : groupsOf a ≤ groupsOf b := by
  have h0 := h 0 (by decide)
  have h1 := h 1 (by decide)
  have h2 := h 2 (by decide)
  have h3 := h 3 (by decide)
  simp only [groupsOf]
  omega

/-- A deal hands out min(16, total demand) groups (R97). -/
theorem DealtWithin.groupsOf_eq {demand alloc : Vector Nat 4} {first n : Nat} (h : DealtWithin demand first n alloc) (hn : 64 ≤ n)
    (hd : ∀ k < 4, demand.getD k 0 ≤ 16) : groupsOf alloc = min 16 (groupsOf demand) := by
  obtain ⟨m, hturns, hle, hend⟩ := h
  have htotal : groupsOf alloc ≤ groupsOf demand := groupsOf_le fun k hk => hturns.le hk
  obtain hfull | rfl := hend
  · omega
  · have hall : groupsOf demand ≤ groupsOf alloc := groupsOf_le fun k hk => Nat.le_of_eq (hturns.satisfied hk hn (hd k hk)).symm
    omega

/-! A run of turns. -/

section DealFrom

variable {demand alloc : Vector Nat 4} {fuel t dealt : Nat} {f : Option Nat}

theorem dealFrom_give (h : dealt < 16 ∧ alloc.getD t 0 < demand.getD t 0) :
    dealFrom demand (fuel + 1) t dealt alloc f =
      dealFrom demand fuel ((t + 1) % 4) (dealt + 1) (alloc.setIfInBounds t (alloc.getD t 0 + 1)) (if f.isNone then some t else f) :=
  if_pos h

theorem dealFrom_pass (h : ¬ (dealt < 16 ∧ alloc.getD t 0 < demand.getD t 0)) :
    dealFrom demand (fuel + 1) t dealt alloc f = dealFrom demand fuel ((t + 1) % 4) dealt alloc f :=
  if_neg h

/-- A deal hands out no seventeenth group. -/
theorem dealFrom_full (fuel : Nat) : ∀ t f, dealFrom demand fuel t 16 alloc f = (alloc, f) := by
  induction fuel with
  | zero => exact fun _ _ => rfl
  | succ fuel ih => exact fun t f => (dealFrom_pass (fun h => absurd h.1 (by decide))).trans (ih _ f)

/-- Turns go on until sixteen groups are handed out. -/
theorem dealFrom_dealtWithin {first : Nat} (hf : first < 4) (fuel : Nat) :
    ∀ {n : Nat} {alloc : Vector Nat 4} {f : Option Nat}, AfterTurns demand first n alloc → groupsOf alloc ≤ 16 →
      DealtWithin demand first (n + fuel) (dealFrom demand fuel ((first + n) % 4) (groupsOf alloc) alloc f).1 := by
  induction fuel with
  | zero => exact fun {n _ _} h hle => ⟨n, h, hle, .inr rfl⟩
  | succ fuel ih =>
    intro n alloc f h hle
    have hnext : ((first + n) % 4 + 1) % 4 = (first + (n + 1)) % 4 := by omega
    have hcount : n + (fuel + 1) = n + 1 + fuel := by omega
    by_cases hfull : groupsOf alloc = 16
    · rw [hfull, dealFrom_full]
      exact ⟨n, h, hle, .inl hfull⟩
    by_cases hw : alloc.getD ((first + n) % 4) 0 < demand.getD ((first + n) % 4) 0
    · have hgive := groupsOf_give alloc (Nat.mod_lt (first + n) (by decide))
      rw [dealFrom_give ⟨by omega, hw⟩, hnext, ← hgive, hcount]
      exact ih (h.give hf hw) (by omega)
    · rw [dealFrom_pass (fun hc => hw hc.2), hnext, hcount]
      exact ih (h.pass hf (Nat.le_of_not_lt hw)) hle

/-- The 68 turns of the model's deal, from no groups on. -/
theorem dealFrom_zero_dealtWithin {first : Nat} (hf : first < 4) :
    DealtWithin demand first 68 (dealFrom demand 68 first 0 (Vector.replicate 4 0) none).1 := by
  have h := dealFrom_dealtWithin (demand := demand) (f := none) hf 68 afterTurns_replicate_zero (by decide)
  rwa [Nat.add_zero first, Nat.mod_eq_of_lt hf] at h

end DealFrom

/-! The demand of a slot (R96). -/

theorem Hart.demand_of_idle {h : Hart} (hi : h.run = .idle) : h.demand = 0 := by
  simp [Hart.demand, hi]

theorem Hart.demand_of_running {h : Hart} (hr : h.run = .running) :
    h.demand = min 16 ((h.csr.vl.toNat * container (h.csr.vty.toNat % 32) + 127) / 128) := by
  simp [Hart.demand, hr, ceilDiv, Hart.cfg, cfgOf, Cfg.w, bitsAt]

theorem Hart.demand_le (h : Hart) : h.demand ≤ 16 := by
  unfold Hart.demand
  split
  · exact Nat.zero_le _
  · exact Nat.min_le_left _ _

section DemandAt

variable {s : State} {die core k : Nat}

theorem State.demandAt_le : s.demandAt die core k ≤ 16 := by
  unfold State.demandAt
  split
  · exact Hart.demand_le _
  · exact Nat.zero_le _

theorem State.demandAt_of_idle (hidle : ∀ h ∈ s.harts, h.place = { die, core, slot := k } → h.run = .idle) :
    s.demandAt die core k = 0 := by
  unfold State.demandAt
  split
  · next g hg => exact Hart.demand_of_idle (hidle g (List.mem_of_find?_eq_some hg) (by simpa using List.find?_some hg))
  · rfl

/-- The one hart of a slot gives its demand. -/
theorem State.demandAt_of_hart {h : Hart} (hm : h ∈ s.harts) (hp : h.place = { die, core, slot := k })
    (hu : ∀ g ∈ s.harts, g.place = h.place → g = h) : s.demandAt die core k = h.demand := by
  unfold State.demandAt
  split
  · next g hg => rw [hu g (List.mem_of_find?_eq_some hg) (by simpa [hp] using List.find?_some hg)]
  · next hn => exact absurd hp (by simpa using List.find?_eq_none.1 hn h hm)

end DemandAt

/-! A deal on a core. -/

/-- The allotment that a deal leaves. -/
def State.dealt (s : State) (die core : Nat) : Vector Nat 4 := ((s.deal die core).lanes.get {} (coreKey die core)).alloc

/-- The demands of a core's slots. -/
def State.demands (s : State) (die core : Nat) : Vector Nat 4 := Vector.ofFn fun k : Fin 4 => s.demandAt die core k

/-- A task runs on the core under DET (R100). -/
def Hart.HoldsAll (h : Hart) (die core : Nat) : Prop :=
  h.place.die = die ∧ h.place.core = core ∧ h.run = .running ∧ h.det = true

section Deal

variable {s : State} {die core : Nat}

theorem State.demands_getD {k : Nat} (hk : k < 4) : (s.demands die core).getD k 0 = s.demandAt die core k := by
  simp [State.demands, Vector.getD, hk]

/-- Without a task under DET a deal goes by turns from the slot after F (R97). -/
theorem State.dealtWithin_of_noDet (hno : ∀ h ∈ s.harts, ¬ h.HoldsAll die core) :
    ∃ first, DealtWithin (s.demands die core) first 68 (s.dealt die core) := by
  refine ⟨((s.lanes.get {} (coreKey die core)).first + 1) % 4, ?_⟩
  simp only [State.dealt, State.deal, Store.get_set, if_true]
  split
  · next g hg =>
    exact absurd (by simpa [Hart.HoldsAll, and_assoc] using List.find?_some hg) (hno g (List.mem_of_find?_eq_some hg))
  · exact dealFrom_zero_dealtWithin (Nat.mod_lt _ (by decide))

/-- The task under DET holds the sixteen groups (R100). -/
theorem State.dealt_of_det {h : Hart} (hm : h ∈ s.harts) (hd : h.HoldsAll die core)
    (hu : ∀ g ∈ s.harts, g.HoldsAll die core → g = h) :
    s.dealt die core = (Vector.replicate 4 0).setIfInBounds h.place.slot 16 := by
  simp only [State.dealt, State.deal, Store.get_set, if_true]
  split
  · next g hg => rw [hu g (List.mem_of_find?_eq_some hg) (by simpa [Hart.HoldsAll, and_assoc] using List.find?_some hg)]
  · next hn => exact absurd hd (by simpa [Hart.HoldsAll] using List.find?_eq_none.1 hn h hm)

end Deal

/-- Settles O23: without DET the allotment is that of the turns made until sixteen groups are dealt or every slot has its demand;
under DET one slot is set to 16; the demand is that of the slot's hart. -/
theorem laneDeal : Obligations.LaneDeal := by
  refine fun s die core => ⟨fun hno => ?_, fun h hm hd hslot hu => ?_, fun k => ⟨State.demandAt_of_idle, fun h hm hp hu hr => ?_⟩⟩
  · have hdemand (k : Nat) (hk : k < 4) : (s.demands die core).getD k 0 = s.demandAt die core k := State.demands_getD hk
    obtain ⟨first, hdealt⟩ := State.dealtWithin_of_noDet hno
    have hsum := hdealt.groupsOf_eq (by decide) fun k hk => le_of_eq_of_le (hdemand k hk) State.demandAt_le
    rw [groupsOf, groupsOf, hdemand 0 (by decide), hdemand 1 (by decide), hdemand 2 (by decide), hdemand 3 (by decide)] at hsum
    obtain ⟨n, hturns, -, -⟩ := hdealt
    exact ⟨fun k hk => ⟨State.demandAt_le, le_of_le_of_eq (hturns.le hk) (hdemand k hk)⟩, hsum,
      fun k hk hw j hj => hturns.even hj hk (Nat.lt_of_lt_of_eq hw (hdemand k hk).symm)⟩
  · have halloc (k : Nat) (hk : k < 4) : (s.dealt die core).getD k 0 = if k = h.place.slot ∧ k < 4 then 16 else 0 := by
      rw [State.dealt_of_det hm hd hu, getD_setIfInBounds]
      simp [Vector.getD, hk]
    exact ⟨(halloc _ hslot).trans (if_pos ⟨rfl, hslot⟩), fun k hk hne => (halloc k hk).trans (if_neg fun hc => hne hc.1)⟩
  · exact (State.demandAt_of_hart hm hp hu).trans (Hart.demand_of_running hr)

end Sys2Proof.Machine
end
